-- ==== Sys2Proof/Word.lean ====
section
/-! DEFINITION. The widths of the values the spec names (00_scope.md R10: every value has a stated width in bits,
all values are unsigned, bit 0 is the least significant). -/

namespace Sys2Proof

/-- One bit that goes out on a pin: `RSR`, `BL`, Enable (R20, R81). -/
abbrev Bit := BitVec 1

/-- The data path to the display (R7). -/
abbrev Nibble := BitVec 4

/-- A byte of the client, or a word on the expander's pins (R7). -/
abbrev Byte := BitVec 8

/-- A request word, format `RQ` (R85). -/
abbrev RequestWord := BitVec 10

/-- A response word, format `RS2` (R89). -/
abbrev ResponseWord := BitVec 2

/-- A bus address (R28). -/
abbrev BusAddr := BitVec 7

/-- Bit `k` of a byte, as a Boolean (R10's `v[k]`). -/
def Byte.bit (w : Byte) (k : Nat) : Bool := w.getLsbD k

end Sys2Proof
end

