-- ==== Sys2Proof/Syntax.lean ====
section
/-! DEFINITION. The requests of the block, one constructor per row of spec/opcode_table.json (R9: one request is one
instruction; 30_encoding.md R85). -/

namespace Sys2Proof

/-- A request. The operand's type is its width, so every term is an instruction the spec gives (R87: all 256 payloads
are legal for the two byte requests). -/
inductive Instr where
  /-- `WRCMD b`: send a command byte (R113). -/
  | wrcmd (b : Byte)
  /-- `WRDATA b`: send a data byte (R114). -/
  | wrdata (b : Byte)
  /-- `INIT`: run the nibble-mode initialisation sequence (R131). -/
  | init
  /-- `SETBL v`: set the backlight bit (R145). -/
  | setbl (v : Bit)
  deriving DecidableEq, Repr

end Sys2Proof
end

