-- ==== Sys2Proof/Decode.lean ====
section
/-! DEFINITION. Decoding and encoding of request words (30_encoding.md R85 to R88), and the request table by match and
mask (R86). -/

namespace Sys2Proof

/-- What a reserved word is refused for (R88). -/
inductive Reserved where
  /-- `0x201` to `0x2FF`: `INIT` with a non-zero payload. -/
  | initPayload
  /-- `0x302` to `0x3FF`: `SETBL` with any of `pl[7:1]` set. -/
  | setblPayload
  deriving DecidableEq, Repr

/-- The result of decoding: a request, or R86's `ILLEGAL`. -/
inductive Decoded where
  | request (i : Instr)
  | illegal (why : Reserved)
  deriving DecidableEq, Repr

/-- Field `op` of a request word (R85). -/
def RequestWord.op (q : RequestWord) : BitVec 2 := q.extractLsb' 8 2

/-- Field `pl` of a request word (R85). -/
def RequestWord.pl (q : RequestWord) : Byte := q.extractLsb' 0 8

/-- The decoder, total on all 1024 request words (R86). -/
def decode (q : RequestWord) : Decoded :=
  if RequestWord.op q = 0b00#2 then .request (.wrcmd (RequestWord.pl q))
  else if RequestWord.op q = 0b01#2 then .request (.wrdata (RequestWord.pl q))
  else if RequestWord.op q = 0b10#2 then
    if RequestWord.pl q = 0x00#8 then .request .init else .illegal .initPayload
  else
    if (RequestWord.pl q).extractLsb' 1 7 = 0b0000000#7 then .request (.setbl ((RequestWord.pl q).extractLsb' 0 1))
    else .illegal .setblPayload

/-- The request word of a request, field by field from the table of R85. -/
def encode : Instr → RequestWord
  | .wrcmd b  => 0b00#2 ++ b
  | .wrdata b => 0b01#2 ++ b
  | .init     => 0b10#2 ++ 0x00#8
  | .setbl v  => 0b11#2 ++ 0b0000000#7 ++ v

/-- One row of spec/opcode_table.json: a word belongs to it when `word & mask = pattern`. -/
structure OpcodeRow where
  mnemonic : String
  mask     : RequestWord
  pattern  : RequestWord
  deriving DecidableEq, Repr

/-- "As match and mask over the 10-bit word" (R86). -/
def opcodeRows : List OpcodeRow :=
  [ { mnemonic := "WRCMD",  mask := 0x300, pattern := 0x000 },
    { mnemonic := "WRDATA", mask := 0x300, pattern := 0x100 },
    { mnemonic := "INIT",   mask := 0x3FF, pattern := 0x200 },
    { mnemonic := "SETBL",  mask := 0x3FE, pattern := 0x300 } ]

/-- The word belongs to the row. -/
def OpcodeRow.covers (r : OpcodeRow) (q : RequestWord) : Bool := q &&& r.mask == r.pattern

/-- A request's mnemonic (R85). -/
def Instr.mnemonic : Instr → String
  | .wrcmd _  => "WRCMD"
  | .wrdata _ => "WRDATA"
  | .init     => "INIT"
  | .setbl _  => "SETBL"

/-- The 10-bit word that `nbits` bits of `w` put on the request port. The port is 10 bits wide (R80), so a number that
does not fit is no request word (log 14). -/
def tableWord (nbits w : Nat) : Option RequestWord :=
  if w % 2 ^ nbits < 1024 then some (BitVec.ofNat 10 (w % 2 ^ nbits)) else none

/-- The instruction this decoder reads from the bits of `w`, numbered as spec/opcode_table.json numbers them. A request
is one 10-bit word and has no operand words (R80). -/
def decodeTableWord (nbits w : Nat) : Option Instr :=
  match tableWord nbits w with
  | none => none
  | some q =>
    match decode q with
    | .request i => some i
    | .illegal _ => none

end Sys2Proof
end

