-- ==== Sys2Proof/Config.lean ====
section
/-! DEFINITION. What is fixed when the block and its client are constructed (00_scope.md R7, 43_client_macros.md R155),
and the free values: constants without a body, of which nothing can be proved. -/

namespace Sys2Proof

/-- `BUS_ERR_POLICY` (R7, decision D10): what a failed bus write does. -/
inductive BusErrPolicy where
  /-- Stop the operation and answer `BUS_FAIL` (R184). -/
  | propagate
  /-- Discard the result (R186). -/
  | ignore
  deriving DecidableEq, Repr

/-- The result of one bus write (R50, R51). The block does not choose it. -/
inductive BusResult where
  | ok
  | fail
  deriving DecidableEq, Repr, Inhabited

/-- The parameters of the block (R7). A claim quantifies over them; no request changes them (R30). -/
structure Params where
  /-- `ADDR`, the expander's bus address, OPEN, all 128 values (R28). -/
  addr     : BusAddr
  /-- `BL_RESET`, OPEN (R26). -/
  blReset  : Bit
  /-- `BUS_ERR_POLICY`. -/
  policy   : BusErrPolicy := .propagate
  /-- `T_INIT1_MS`, at least 5 (R132). -/
  tInit1Ms : Nat := 5
  /-- `T_INIT2_MS`, at least 1 (R132). -/
  tInit2Ms : Nat := 1
  /-- `F_SCL` in kHz, 100 to 400, informative: no rule of the step relation reads it (R7, R218). -/
  fSclKHz  : Nat := 100
  deriving DecidableEq, Repr

/-- The display's geometry, a parameter of the client (R155). -/
structure Geometry where
  rows    : Int
  columns : Int
  deriving DecidableEq, Repr

/-- The client's parameters (R155). The three bytes are OPEN (D24). -/
structure ClientParams where
  geometry : Geometry
  /-- `FS_BYTE`, the function-set command. -/
  fsByte   : Byte
  /-- `DC_BYTE`, the display-control command. -/
  dcByte   : Byte
  /-- `EM_BYTE`, the entry-mode command. -/
  emByte   : Byte
  deriving DecidableEq, Repr

/-- The client's `CursorPosition` (R155), stored unmasked (90_conflicts.md C9). -/
structure Cursor where
  row    : Int
  column : Int
  deriving DecidableEq, Repr, Inhabited

namespace Config

/-- The parameters of `State.reset`. `ADDR` and `BL_RESET` are OPEN in R7 and `F_SCL` is a range.
DESIGN CHOICE (log 4), unsafe: 0, 0 and 100. The others are the spec's defaults. -/
def params : Params := { addr := 0, blReset := 0 }

/-- The client's parameters in `State.reset`. DESIGN CHOICE for the geometry, PRESUMED for the three bytes, which are
the spec's example values and marked there as general knowledge (log 11), unsafe. -/
def clientParams : ClientParams :=
  { geometry := { rows := 2, columns := 16 }, fsByte := 0x28, dcByte := 0x0C, emByte := 0x06 }

/-- FREE VALUE: the result of the `n`-th bus write of a run for which `Env.answers` lists none
(R12: "inputs from the environment"). DESIGN CHOICE of form (log 2), safe. -/
opaque busResult : Nat → BusResult

/-- FREE VALUE: the client's stored cursor after its `n`-th written character. "by how much is not in the source"
(R163, N16). DESIGN CHOICE of form (log 10), safe. -/
opaque cursorAfterPut : Nat → Cursor

end Config

end Sys2Proof
end

