-- ==== Sys2Proof/Machine/State.lean ====
section
/-! DEFINITION. The state of the block, of the environment the rules read or write, and of the block's client, as plain
data (10_state.md R20 to R39, 43_client_macros.md R155), and its value after reset (R39). -/

namespace Sys2Proof.Machine

/-- The three micro-programs (R24). `WRCMD` and `WRDATA` share `XFER`. -/
inductive Op where
  | xfer
  | init
  | setbl
  deriving DecidableEq, Repr

/-- The number of micro-steps of a micro-program (R24). -/
def Op.len : Op → Nat
  | .xfer  => 6
  | .init  => 14
  | .setbl => 1

/-- The sequencer `SEQ`, the analogue of a program counter: 22 values (R24). -/
inductive Seq where
  /-- `IDLE`. -/
  | idle
  /-- `RUN(op, i)`: micro-step `i` of `op` is next. -/
  | run (op : Op) (i : Fin op.len)
  deriving DecidableEq, Repr

/-- A response code (R89). -/
inductive Response where
  /-- Every micro-step was performed. -/
  | ok
  /-- A bus write failed, the operation was cut short (R181). -/
  | busFail
  /-- `WRCMD` or `WRDATA` with `INITED = 0` (R182). -/
  | uninit
  /-- A reserved request word (R183). -/
  | illegalReq
  deriving DecidableEq, Repr

/-- The failures a request can end with (R180). -/
inductive Failure where
  | busFail
  | uninit
  | illegalReq
  deriving DecidableEq, Repr

/-- An event of the trace (R12). -/
inductive Event where
  /-- A request word is accepted on the request port. -/
  | req (q : RequestWord)
  /-- A bus write of `w` to `a` completes with result `r`. -/
  | bus (a : BusAddr) (w : Byte) (r : BusResult)
  /-- A delay of at least `t` milliseconds elapses. -/
  | wait (t : Nat)
  /-- The response to the last accepted request. -/
  | resp (c : Response)
  deriving DecidableEq, Repr

/-- The bus address space (R37, R61): (address, byte) cells, addresses rising. An address not listed has no known value. -/
abbrev Memory := List Host.Cell

/-- One entry of the latch trace (R35). -/
inductive LatchEvent where
  /-- The display latches the nibble `n` with register select `rs`. -/
  | pair (rs : Bit) (n : Nibble)
  /-- What the display latched here, if anything, is not known (U6, U9, U14): no claim can be made about it (log 9). -/
  | uncertain
  deriving DecidableEq, Repr

/-- The display's mode and nibble phase, as far as the rules determine it (R36, R39). -/
inductive NibblePhase where
  /-- "no known value" (R39), and after a failed write until the next completed `INIT` (R36). -/
  | unknown
  /-- An `INIT` runs and none of its writes has failed. `held` is what it made the display latch while the latch trace was
  lost: known if the `INIT` completes, and not known if it does not (U6, R211). -/
  | initialising (held : List LatchEvent)
  /-- 4-bit mode, the high half of a byte comes next. -/
  | high
  /-- 4-bit mode, the high half `hi` with register select `rs` has been latched. -/
  | low (rs : Bit) (hi : Nibble)
  deriving DecidableEq, Repr

/-- What the rules say of the display. -/
structure Display where
  phase    : NibblePhase := .unknown
  /-- What the display latches is unknown: since reset (R211, U14), or since a bus write failed (U6), no `INIT` all of whose
  writes succeeded has completed. The model's own field (log 9). -/
  lost     : Bool := true
  /-- The latch trace (R35). -/
  latches  : List LatchEvent := []
  /-- The bytes the display is known to have received, with their register select (R36). -/
  received : List (Bit × Byte) := []
  deriving DecidableEq, Repr

/-- The environment's choices still to come (R12, R38). These are the model's own fields. -/
structure Env where
  /-- The results of the next bus writes. Past its end the free value `Config.busResult` decides (log 2). -/
  answers   : List BusResult := []
  /-- Bus writes made so far. -/
  writes    : Nat := 0
  /-- How many calls of the two primitives still return; none when all do (R198, log 3). -/
  hangAfter : Option Nat := none
  deriving DecidableEq, Repr

/-- What a client may call: a request or a wait issued directly, or an operation of the Generic Display Controller
(30_encoding.md R92). A character is its code point. -/
inductive ClientCall where
  | raw (q : RequestWord)
  /-- `WAIT ms`. -/
  | wait (ms : Nat)
  /-- `INITIALIZE` (R158). -/
  | bringUp
  /-- `CLEAR` (R159). -/
  | clear
  /-- `HOME` (R160). -/
  | home
  /-- `MOVECURSOR r, c` (R161). -/
  | moveCursor (row column : Int)
  /-- `PUTCHAR ch` (R163). -/
  | putChar (codePoint : Nat)
  /-- `PUTSTRING s` (R164). -/
  | putString (codePoints : List Nat)
  deriving DecidableEq, Repr

/-- What a call expands into (43_client_macros.md: requests and client waits). -/
inductive ClientItem where
  | request (q : RequestWord)
  | wait (ms : Nat)
  deriving DecidableEq, Repr

/-- What the acceptance of one request of a call does to the stored cursor (R155). -/
inductive CursorMove where
  /-- Nothing. -/
  | stay
  /-- It becomes `c` (R159 to R161). -/
  | to (c : Cursor)
  /-- A character is written: by how much the cursor advances is not in the source (R163). -/
  | written
  deriving DecidableEq, Repr

/-- The client (R155), with what it still has to do. -/
structure Client where
  params  : ClientParams
  /-- `CursorPosition`. -/
  cursor  : Cursor := { row := 0, column := 0 }
  /-- Calls not begun, first to last. -/
  calls   : List ClientCall := []
  /-- What is left of the call in progress. The request at its head is the word offered on the request port. -/
  items   : List ClientItem := []
  /-- What the requests among `items` will do to the stored cursor, in their order. The model's own field (log 10). -/
  moves   : List CursorMove := []
  /-- A call is in progress. -/
  running : Bool := false
  /-- The first code other than `OK` that a request of the call returned (R166). -/
  code    : Response := .ok
  /-- The codes the finished calls returned. -/
  returns : List Response := []
  /-- Characters written so far, the argument of the free value `Config.cursorAfterPut`. -/
  puts    : Nat := 0
  deriving DecidableEq, Repr

/-- The whole state. -/
structure State where
  /-- `DR` (R21). -/
  dr      : Byte
  /-- `RSR` (R22). -/
  rsr     : Bit
  /-- `SEQ` (R24). -/
  seq     : Seq
  /-- `BL` (R26). -/
  bl      : Bit
  /-- `INITED` (R27). -/
  inited  : Bool
  /-- The parameters (R7), with `ADDR` (R28) among them. -/
  params  : Params
  /-- The bus address space, with `PORT` in it (R33, R37). -/
  mem     : Memory
  /-- The display (R35, R36). -/
  display : Display
  /-- The environment's choices (R38). -/
  env     : Env
  /-- The events so far, oldest first (R12). -/
  trace   : List Event
  /-- The client (R155). -/
  client  : Client
  deriving DecidableEq, Repr

/-- Reasons to stop. The spec names none: every failure is a response code and the block goes on (R180), and a primitive
that never returns leaves the block in its `RUN` state (R198), which is a state, not a stop (log 13). -/
inductive Fault where
  deriving DecidableEq, Repr

/-- Reasons to give an instruction no meaning. -/
inductive Refusal where
  /-- Raised by an arm of `exec` whose instruction has no meaning yet. No arm is left that raises it. Safe: it stops. -/
  | notModelled (mnemonic : String)
  deriving DecidableEq, Repr

/-- The state right after construction with parameters `p`, and a client constructed with `c` (R39, R210). `DR` and `RSR`
have no value after reset; DESIGN CHOICE 0 (log 5), which no rule reads before writing. -/
def State.construct (p : Params) (c : ClientParams) : State where
  dr      := 0
  rsr     := 0
  seq     := .idle
  bl      := p.blReset
  inited  := false
  params  := p
  mem     := []
  display := {}
  env     := {}
  trace   := []
  client  := { params := c }

/-- The machine right after reset, at the parameters of `Config` (log 4, log 11). -/
def State.reset : State := State.construct Config.params Config.clientParams

end Sys2Proof.Machine
end

