-- ==== Sys2Proof/Machine/Operands.lean ====
section
/-! DEFINITION. The expander word (30_encoding.md R81 to R83), the response word (R89), the operand forms a micro-step
reads, and the micro-programs built from them (10_state.md R24, 40_byte_transfer.md R110, R112). -/

namespace Sys2Proof.Machine

/-- `XW(n, rs, en)` with the backlight bit `bl`: `n ## BL ## en ## 0 ## rs` (R81). -/
def expanderWord (n : Nibble) (bl rs en : Bit) : Byte := n ++ bl ++ en ++ 0b0#1 ++ rs

/-- Pin `RS`, bit 0 (R33). -/
def rsPin (w : Byte) : Bit := w.extractLsb' 0 1

/-- Pin `E`, bit 2 (R33). -/
def enablePin (w : Byte) : Bool := Byte.bit w 2

/-- The four data pins, bits 7:4 (R33, R82). -/
def dataPins (w : Byte) : Nibble := w.extractLsb' 4 4

/-- `b[7:4]` (R53). -/
def highNibble (b : Byte) : Nibble := b.extractLsb' 4 4

/-- `b[3:0]` (R53). -/
def lowNibble (b : Byte) : Nibble := b.extractLsb' 0 4

/-- The response word of a code, format `RS2` (R89). -/
def Response.word : Response → ResponseWord
  | .ok         => 0b00
  | .busFail    => 0b01
  | .uninit     => 0b10
  | .illegalReq => 0b11

/-- The code of a response word (R89). -/
def Response.ofWord (w : ResponseWord) : Response :=
  if w = 0b00#2 then .ok else if w = 0b01#2 then .busFail else if w = 0b10#2 then .uninit else .illegalReq

/-- Where the nibble of a micro-step comes from (R24, R65). -/
inductive NibbleSource where
  | drHigh
  | drLow
  | const (n : Nibble)
  deriving DecidableEq, Repr

/-- Where the mode bit of a micro-step comes from (R22, R24). -/
inductive ModeSource where
  | rsr
  | zero
  deriving DecidableEq, Repr

/-- Which delay a micro-step asks for (R24). -/
inductive DelaySource where
  | tInit1
  | tInit2
  deriving DecidableEq, Repr

/-- A micro-step: one bus write or one delay (R24). -/
inductive MicroStep where
  | write (n : NibbleSource) (rs : ModeSource) (en : Bit)
  | delay (t : DelaySource)
  deriving DecidableEq, Repr

def NibbleSource.value (s : State) : NibbleSource → Nibble
  | .drHigh  => highNibble s.dr
  | .drLow   => lowNibble s.dr
  | .const n => n

def ModeSource.value (s : State) : ModeSource → Bit
  | .rsr  => s.rsr
  | .zero => 0

def DelaySource.value (s : State) : DelaySource → Nat
  | .tInit1 => s.params.tInit1Ms
  | .tInit2 => s.params.tInit2Ms

/-- The word a write micro-step puts on the bus; `BL` is read when the word is built (R81). -/
def writeWord (n : NibbleSource) (rs : ModeSource) (en : Bit) (s : State) : Byte :=
  expanderWord (n.value s) s.bl (rs.value s) en

/-- `NibblePulse(n, rs)`: setup, raise, drop (R83, R110). -/
def nibblePulse (n : NibbleSource) (rs : ModeSource) : List MicroStep :=
  [.write n rs 0, .write n rs 1, .write n rs 0]

/-- The micro-programs (R24; `XFER` R112, `INIT` R131, `SETBL` R145). -/
def microProgram : Op → List MicroStep
  | .xfer  => nibblePulse .drHigh .rsr ++ nibblePulse .drLow .rsr
  | .init  => nibblePulse (.const 0x3) .zero ++ [.delay .tInit1] ++ nibblePulse (.const 0x3) .zero
                ++ [.delay .tInit2] ++ nibblePulse (.const 0x3) .zero ++ nibblePulse (.const 0x2) .zero
  | .setbl => [.write (.const 0x0) .zero 0]

/-- Every micro-program has the length R24 gives it. -/
theorem microProgram_length (op : Op) : (microProgram op).length = op.len := by cases op <;> rfl

/-- Micro-step `i` of `op`. -/
def microStep (op : Op) (i : Fin op.len) : MicroStep :=
  (microProgram op).get (i.cast (microProgram_length op).symm)

end Sys2Proof.Machine
end

