-- ==== Sys2Proof/Machine/Display.lean ====
section
/-! DEFINITION. What a bus write makes the display do: the latch event on the falling edge of Enable (10_state.md R35)
and the pairing of latched nibbles (R36). The block never reads any of it (R52). -/

namespace Sys2Proof.Machine

/-- The latch event of a bus write of `w` with result `r` when the port held `before`.
A known port: a falling edge of Enable latches `(w[0], w[7:4])` if the write succeeded (R35); if it failed it may or may
not have reached the pins (R34), so the latch is uncertain. DEDUCED (log 9).
An unknown port and Enable low in `w`: unspecified (R35, U14). A write that does not lower Enable latches nothing.
What the latch trace keeps of it while nothing is known of the display (`Display.lost`) is `latchEntry`'s matter. -/
def latchOf (before : Option Byte) (w : Byte) (r : BusResult) : Option LatchEvent :=
  if enablePin w then none
  else
    match before with
    | none => some .uncertain
    | some p =>
      if enablePin p then
        match r with
        | .ok => some (.pair (rsPin w) (dataPins w))
        | .fail => some .uncertain
      else none

/-- What remains of a latch event when the latch trace is unknown (U6, R211). -/
def LatchEvent.weaken : LatchEvent → LatchEvent
  | .pair _ _ => .uncertain
  | .uncertain => .uncertain

/-- The entry a latch event makes in the latch trace: as it is, or, while the trace is lost, one of which nothing is known
(U6, R211). -/
def latchEntry (lost : Bool) (e : Option LatchEvent) : Option LatchEvent := if lost then e.map LatchEvent.weaken else e

/-- The display pairs the nibble of an entry of its latch trace: in 4-bit mode, the high half and then the low half of a
byte (R36). While an `INIT` runs, lone nibbles make no byte, and the sequence works whatever was latched before it (R211). -/
def Display.take (d : Display) : Option LatchEvent → Display
  | none => d
  | some .uncertain =>
    match d.phase with
    | .initialising _ => d
    | _ => { d with phase := .unknown }
  | some (.pair rs n) =>
    match d.phase with
    | .unknown => d
    | .initialising _ => d
    | .high => { d with phase := .low rs n }
    | .low rs₀ hi =>
      if rs = rs₀ then { d with phase := .high, received := d.received ++ [(rs, hi ++ n)] }
      else { d with phase := .unknown }

/-- The latches of a running `INIT` that its completion would make known. -/
def Display.held (d : Display) : List LatchEvent :=
  match d.phase with
  | .initialising held => held
  | _ => []

/-- Nothing is known of the display's phase any more, nor of what a running `INIT` was yet to make known. -/
def Display.forget (d : Display) : Display :=
  { d with phase := .unknown, latches := d.latches ++ d.held.map LatchEvent.weaken }

/-- The latch trace is lost: by a reset (R211, U14) or a failed bus write (U6, U9). -/
def Display.lose (d : Display) : Display := { d.forget with lost := true }

/-- What one bus write does to the display. From reset on (R211, U14) and from a failed write on (R36, U6, U9) the latch trace
is unknown, where R35 taken alone would give a pair at each known edge, until an `INIT` all of whose writes succeed completes.
While the trace is lost, such an `INIT` holds its latches back, so one that is cut short makes none known. DEDUCED (log 9). -/
def Display.observe (d : Display) (before : Option Byte) (w : Byte) (r : BusResult) : Display :=
  match r with
  | .fail => { d.lose with latches := d.lose.latches ++ (latchOf before w .fail).toList }
  | .ok =>
    match d.phase, d.lost with
    | .initialising held, true => { d with phase := .initialising (held ++ (latchOf before w .ok).toList) }
    | _, lost =>
      { d.take (latchEntry lost (latchOf before w .ok)) with
        latches := d.latches ++ (latchEntry lost (latchOf before w .ok)).toList }

/-- An `INIT` begins. -/
def Display.beginInit (d : Display) : Display := { d with phase := .initialising [] }

/-- An `INIT` completes: if every write of it succeeded, the display expects the high half of a byte (R36, R134) and the
latch trace is known from here on (U6, R211). -/
def Display.endInit (d : Display) : Display :=
  match d.phase with
  | .initialising held => { d with phase := .high, lost := false, latches := d.latches ++ held }
  | _ => { d with phase := .unknown }

end Sys2Proof.Machine
end

