-- ==== Sys2Proof/Machine/Flags.lean ====
section
/-! DEFINITION. The two status bits a client can infer, `INITED` and `BUSY`, and the operating state they give
(10_state.md R27, R29, R31; 60_exceptions.md R192). There are no condition codes (R31). -/

namespace Sys2Proof.Machine

/-- `BUSY`: the predicate `SEQ != IDLE` (R29). -/
def State.busy (s : State) : Bool := decide (s.seq ≠ .idle)

/-- The two operating states (R192). -/
inductive OperatingState where
  | uninit
  | ready
  deriving DecidableEq, Repr

/-- `UNINIT` when `INITED = 0`, `READY` when `INITED = 1` (R192). -/
def State.operatingState (s : State) : OperatingState := if s.inited then .ready else .uninit

/-- The column "accepted and executed" of R192's table. -/
def OperatingState.executes : OperatingState → Instr → Bool
  | .uninit, .wrcmd _  => false
  | .uninit, .wrdata _ => false
  | .uninit, .init     => true
  | .uninit, .setbl _  => true
  | .ready,  .wrcmd _  => true
  | .ready,  .wrdata _ => true
  | .ready,  .init     => true
  | .ready,  .setbl _  => true

/-- `INITED <- 0`: the acceptance of `INIT`, and a failed bus write under `propagate` (R27). -/
def State.clearInited (s : State) : State := { s with inited := false }

/-- `INITED <- 1`: the completion of the last micro-step of `INIT` (R27). -/
def State.setInited (s : State) : State := { s with inited := true }

end Sys2Proof.Machine
end

