-- ==== Sys2Proof/Machine/Ops.lean ====
section
/-! DEFINITION. The named operations: the bus address space, the two primitives the block calls (20_memory.md R50,
60_exceptions.md R196), the response and the entry of a failure (R184, R185), the sequencer's advance (10_state.md R25),
and an external reset (R210). -/

namespace Sys2Proof.Machine

namespace Memory

/-- What an unlisted address holds: no known value (R34, R39). -/
def unlisted : Option Byte := none

/-- The byte at an address, as far as it is known. -/
def read : Memory → Nat → Option Byte
  | [], _ => unlisted
  | (k, b) :: rest, a => if a = k then some b else read rest a

/-- A known byte at `a`, in the place the order of addresses gives it. -/
def insert (a : Nat) (b : Byte) : Memory → Memory
  | [] => [(a, b)]
  | (k, c) :: rest =>
    if a < k then (a, b) :: (k, c) :: rest
    else if a = k then (a, b) :: rest
    else (k, c) :: insert a b rest

/-- No known value at `a`. -/
def erase (a : Nat) : Memory → Memory
  | [] => []
  | (k, b) :: rest => if k = a then erase a rest else (k, b) :: erase a rest

/-- `a` now holds `v`; no known value removes the entry. -/
def set (m : Memory) (a : Nat) : Option Byte → Memory
  | some b => insert a b m
  | none => erase a m

/-- The canonical form: addresses strictly rising, all among the 128 of the address space (R37). -/
abbrev wf (m : Memory) : Prop := m.Pairwise (fun c d => c.1 < d.1) ∧ ∀ c ∈ m, c.1 < 128

end Memory

/-- `ADDR` (R28). -/
def State.addr (s : State) : BusAddr := s.params.addr

/-- What is known of the port at bus address `a`. -/
def State.portAt (s : State) (a : BusAddr) : Option Byte := Memory.read s.mem a.toNat

/-- `PORT` (R33): what is known of the expander's pins. -/
def State.port (s : State) : Option Byte := s.portAt s.addr

/-- The result of the `k`-th bus write from now, counting from 0: an input of the environment (R51). -/
def State.answer (s : State) (k : Nat) : BusResult :=
  match s.env.answers[k]? with
  | some r => r
  | none => Config.busResult (s.env.writes + k)

/-- The next call of a primitive never returns (R198). -/
def State.hung (s : State) : Bool := decide (s.env.hangAfter = some 0)

/-- One call of a primitive has returned. -/
def Env.callReturned (e : Env) : Env := { e with hangAfter := e.hangAfter.map (· - 1) }

/-- The environment after one bus write. -/
def Env.wrote (e : Env) : Env := { e.callReturned with answers := e.answers.tail, writes := e.writes + 1 }

/-- What `PORT` holds after a bus write (R34). -/
def portAfter (w : Byte) : BusResult → Option Byte
  | .ok => some w
  | .fail => none

/-- `BusWrite(w)` with result `r`: the event, the port, the display (R34, R35, R50). -/
def busWrite (w : Byte) (r : BusResult) (s : State) : State :=
  { s with
    mem     := Memory.set s.mem s.addr.toNat (portAfter w r)
    display := s.display.observe s.port w r
    env     := s.env.wrote
    trace   := s.trace ++ [.bus s.addr w r] }

/-- `Delay(t)`: the event (R196). The model has no clock (log 12). -/
def delay (t : Nat) (s : State) : State :=
  { s with env := s.env.callReturned, trace := s.trace ++ [.wait t] }

/-- The item is a client wait. -/
def ClientItem.isWait : ClientItem → Bool
  | .request _ => false
  | .wait _ => true

/-- The client takes a response. After a code other than `OK` the call keeps the first such code and issues no further
request, so it moves the stored cursor no further; only the unconditional wait right behind the request stays (R166). -/
def Client.onResponse (k : Client) (c : Response) : Client :=
  match c with
  | .ok => k
  | _ =>
    { k with
      items := k.items.takeWhile ClientItem.isWait
      moves := []
      code := if k.code = .ok then c else k.code }

/-- Emit `Resp(c)` and go to `IDLE` (R25). -/
def respond (c : Response) (s : State) : State :=
  { s with seq := .idle, trace := s.trace ++ [.resp c], client := s.client.onResponse c }

/-- The response code of a failure (R180). -/
def Failure.code : Failure → Response
  | .busFail    => .busFail
  | .uninit     => .uninit
  | .illegalReq => .illegalReq

/-- `raise f`, the one entry of every failure. `BUS_FAIL` clears `INITED` (R184); a refusal at acceptance changes no
state (R185). -/
def raise (f : Failure) (s : State) : State :=
  respond f.code
    (match f with
     | .busFail => s.clearInited
     | .uninit => s
     | .illegalReq => s)

/-- `DR <- b ; RSR <- rs` (R21, R22). -/
def latchByte (b : Byte) (rs : Bit) (s : State) : State := { s with dr := b, rsr := rs }

/-- `BL <- v` (R26). -/
def setBacklight (v : Bit) (s : State) : State := { s with bl := v }

/-- The display's part in the acceptance of an `INIT` (R36, log 9). -/
def beginInit (s : State) : State := { s with display := s.display.beginInit }

/-- The display's part in the completion of an `INIT` (R36, log 9). -/
def endInit (s : State) : State := { s with display := s.display.endInit }

/-- The normal end of an operation: a completed `INIT` sets `INITED` (R25, R27). It is also the only way back from a
failure (R188). -/
def complete (op : Op) (s : State) : State :=
  match op with
  | .xfer => respond .ok s
  | .init => respond .ok (endInit s.setInited)
  | .setbl => respond .ok s

/-- The end of micro-step `i` when nothing cuts the operation short (R25). -/
def advance (op : Op) (i : Fin op.len) (s : State) : State :=
  if h : i.val + 1 < op.len then { s with seq := .run op ⟨i.val + 1, h⟩ } else complete op s

/-- After a bus write with result `r`: a failed one ends the operation under `propagate` (R184) and nothing else does
(R186). -/
def afterWrite (op : Op) (i : Fin op.len) (r : BusResult) (s : State) : State :=
  match r, s.params.policy with
  | .fail, .propagate => raise .busFail s
  | .fail, .ignore => advance op i s
  | .ok, _ => advance op i s

/-- The step of R25 when `SEQ = RUN(op, i)`. If the primitive it calls never returns, the block stays as it is (R198). -/
def runMicroStep (op : Op) (i : Fin op.len) (s : State) : State :=
  if s.hung then s
  else
    match microStep op i with
    | .write n rs en => afterWrite op i (s.answer 0) (busWrite (writeWord n rs en s) (s.answer 0) s)
    | .delay t => advance op i (delay (t.value s) s)

/-- No micro-program is empty (R24). -/
theorem Op.len_pos (op : Op) : 0 < op.len := by cases op <;> decide

/-- `SEQ <- RUN(op, 0)` (R25). -/
def start (op : Op) (s : State) : State := { s with seq := .run op ⟨0, op.len_pos⟩ }

/-- The client moves its stored cursor. After a written character it is a free value, since by how much it advances "is not
in the source" (R163, log 10). Nothing the block sees depends on it (R155). -/
def Client.move (k : Client) : CursorMove → Client
  | .stay => k
  | .to c => { k with cursor := c }
  | .written => { k with cursor := Config.cursorAfterPut k.puts, puts := k.puts + 1 }

/-- The client's request is accepted, and `rest` is left of the call. DESIGN CHOICE (log 10): this is when the request's move
of the stored cursor happens, whatever the response will be. -/
def Client.take (k : Client) (rest : List ClientItem) : Client :=
  match k.moves with
  | [] => { k with items := rest }
  | m :: ms => { k.move m with items := rest, moves := ms }

/-- The request word `q` is taken from the port, `rest` stays with the client: the event `Req(q)` (R25). -/
def takeRequest (q : RequestWord) (rest : List ClientItem) (s : State) : State :=
  { s with client := s.client.take rest, trace := s.trace ++ [.req q] }

/-- Offer the request word `q` as the next thing the client does. -/
def offer (q : RequestWord) (s : State) : State :=
  { s with client := { s.client with items := .request q :: s.client.items, moves := .stay :: s.client.moves } }

/-- "A power-on or an external reset of the hardware block" (R210): an input, not a step. The block is constructed again
with its parameters, nothing is known of `PORT`, of the display's phase or of what it latches until an `INIT` completes (R211,
log 9), a hang is cleared, and a new run begins. The other bus addresses, what the display has latched before and the
environment's choices are outside the block.
The spec is silent on a client whose request a reset cuts off, or that is blocked in a wait of its own when a reset ends the
hang: no response is ever emitted. DESIGN CHOICE (log 17), unsafe: the client is left as it is. -/
def State.externalReset (s : State) : State where
  dr      := 0
  rsr     := 0
  seq     := .idle
  bl      := s.params.blReset
  inited  := false
  params  := s.params
  mem     := Memory.set s.mem s.addr.toNat none
  display := s.display.lose
  env     := { s.env with hangAfter := none }
  trace   := []
  client  := s.client

end Sys2Proof.Machine
end

