-- ==== Sys2Proof/WellFormed.lean ====
section
/-! DEFINITION. The checks of the spec on things that are written down outside the block: a request word's two fields
(30_encoding.md R85), the block's parameters (R7), the client's geometry (R157). Every term of `Instr` is well formed,
since its operand types are the operands' widths. -/

namespace Sys2Proof

/-- The two fields of format `RQ` (R85): `op` in bits 9:8, `pl` in bits 7:0. -/
structure RequestFields where
  op : BitVec 2
  pl : Byte
  deriving DecidableEq, Repr

namespace RequestFields

/-- The request word of the two fields. -/
def word (f : RequestFields) : RequestWord := f.op ++ f.pl

/-- `INIT` has the payload `0x00` (R85). -/
def initPayloadOk (f : RequestFields) : Bool := f.op != 0b10#2 || f.pl == 0

/-- `SETBL` has `pl[7:1] = 0` (R85). -/
def setblPayloadOk (f : RequestFields) : Bool := f.op != 0b11#2 || f.pl.extractLsb' 1 7 == 0

/-- The fields make a request; otherwise the word is reserved (R88). -/
def wf (f : RequestFields) : Bool := f.initPayloadOk && f.setblPayloadOk

end RequestFields

/-- The bounds R7 puts on the parameters. -/
def Params.wf (p : Params) : Bool :=
  decide (5 ≤ p.tInit1Ms) && decide (1 ≤ p.tInit2Ms) && decide (100 ≤ p.fSclKHz) && decide (p.fSclKHz ≤ 400)

/-- "DisplayGeometry: {rows: integer ≥1, columns: integer ≥1}" (R155). -/
def Geometry.wf (g : Geometry) : Bool := decide (1 ≤ g.rows) && decide (1 ≤ g.columns)

/-- The client can be constructed with these parameters (R157). -/
def ClientParams.wf (c : ClientParams) : Bool := c.geometry.wf

end Sys2Proof
end

