-- ==== Sys2Proof/Machine/Client.lean ====
section
/-! DEFINITION. The client's macros, the pseudo-instructions of the block (43_client_macros.md R155 to R167,
30_encoding.md R92): what each expands into, how the calls are taken one after the other, and the construction of a client. -/

namespace Sys2Proof.Machine

/-- The command constants (R156), payloads of `WRCMD`. The block does not decode them (R87). -/
def cmdClear : Byte := 0x01
def cmdHome : Byte := 0x02
def cmdEntryMode : Byte := 0x04
def cmdDisplayCtrl : Byte := 0x08
def cmdShift : Byte := 0x10
def cmdFunction : Byte := 0x20
def cmdCgram : Byte := 0x40
def cmdDdram : Byte := 0x80

/-- The selectors of `ENTRY_MODE`, the only ones with a value in the source (R156). -/
def entryLeft : Byte := 0x02
def entryRight : Byte := 0x00
def shiftInc : Byte := 0x01
def shiftDec : Byte := 0x00

/-- The other selectors R156 names, with the values it gives as general knowledge and not from its source (N14). PRESUMED
(log 11): no rule and no macro reads them, and a claim may not rest on them. -/
def displayOn : Byte := 0x04
def displayOff : Byte := 0x00
def cursorOn : Byte := 0x02
def cursorOff : Byte := 0x00
def blinkOn : Byte := 0x01
def blinkOff : Byte := 0x00
def eightBit : Byte := 0x10
def fourBit : Byte := 0x00
def twoLines : Byte := 0x08
def oneLine : Byte := 0x00
def fiveByTen : Byte := 0x04
def fiveByEight : Byte := 0x00
def shiftDisplay : Byte := 0x08
def shiftCursor : Byte := 0x00
def shiftRight : Byte := 0x04
def shiftLeft : Byte := 0x00

/-- The wait after `CLEAR` and `HOME`, in milliseconds (R159, R160). -/
def clearWaitMs : Nat := 2

/-- The DDRAM address of a cursor position: the column's remainder by 64, plus `0x40` when the row is odd (R161, R162).
For a negative argument the floor remainder, the spec's decision D20. -/
def ddramAddress (row column : Int) : Nat := (column % 64).toNat + (if row % 2 = 1 then 0x40 else 0x00)

/-- The byte of a character: its code point modulo 256 (R163). -/
def charByte (codePoint : Nat) : Byte := BitVec.ofNat 8 codePoint

/-- A request as an item of the client. -/
def item (i : Instr) : ClientItem := .request (encode i)

/-- `CLEAR` (R159). -/
def expandClear : List ClientItem := [item (.wrcmd cmdClear), .wait clearWaitMs]

/-- `HOME` (R160). -/
def expandHome : List ClientItem := [item (.wrcmd cmdHome), .wait clearWaitMs]

/-- `INITIALIZE` (R158). -/
def expandBringUp (p : ClientParams) : List ClientItem :=
  [item .init, item (.wrcmd p.fsByte), item (.wrcmd p.dcByte)] ++ expandClear ++ [item (.wrcmd p.emByte)]

/-- `MOVECURSOR r, c` (R161). -/
def expandMoveCursor (row column : Int) : List ClientItem :=
  [item (.wrcmd (cmdDdram ||| BitVec.ofNat 8 (ddramAddress row column)))]

/-- `PUTCHAR ch` (R163). -/
def expandPutChar (codePoint : Nat) : List ClientItem := [item (.wrdata (charByte codePoint))]

/-- `PUTSTRING s` (R164): `PUTCHAR` for each character, first to last. -/
def expandPutString (codePoints : List Nat) : List ClientItem := codePoints.flatMap expandPutChar

/-- What a call expands into (R92). -/
def ClientCall.expand (p : ClientParams) : ClientCall → List ClientItem
  | .raw q          => [.request q]
  | .wait ms        => [.wait ms]
  | .bringUp        => expandBringUp p
  | .clear          => expandClear
  | .home           => expandHome
  | .moveCursor r c => expandMoveCursor r c
  | .putChar ch     => expandPutChar ch
  | .putString chs  => expandPutString chs

/-- The position `CLEAR` and `HOME` leave the cursor at (R159, R160). -/
def cursorOrigin : Cursor := { row := 0, column := 0 }

/-- What each request of a call does to the stored cursor, in the order of its expansion (R158 to R164): within `INITIALIZE`
the request of its `CLEAR`, so one that is cut short before it moves nothing. DESIGN CHOICE (log 10): a request issued
directly, whatever byte it sends, leaves it, where the rules give the effect of the macros only. -/
def ClientCall.moves : ClientCall → List CursorMove
  | .raw _          => [.stay]
  | .wait _         => []
  | .bringUp        => [.stay, .stay, .stay, .to cursorOrigin, .stay]
  | .clear          => [.to cursorOrigin]
  | .home           => [.to cursorOrigin]
  | .moveCursor r c => [.to { row := r, column := c }]
  | .putChar _      => [.written]
  | .putString chs  => chs.map (fun _ => .written)

/-- The client begins a call. -/
def Client.begin (k : Client) (c : ClientCall) : Client :=
  { k with items := c.expand k.params, moves := c.moves, running := true, code := .ok }

/-- The client has no item left: the call in progress returns its code (R166), or the next call begins, or there is
nothing to do. It makes no event. -/
def Client.turn (k : Client) : Client :=
  if k.running then { k with running := false, returns := k.returns ++ [k.code] }
  else
    match k.calls with
    | [] => k
    | c :: rest => { k with calls := rest }.begin c

/-- The client's turn while no request word is offered: the block does nothing (R25). -/
def clientTurn (s : State) : State := { s with client := s.client.turn }

/-- `WAIT t` of the client, a call of the same delay primitive (R196). If it never returns, nothing happens any more (R198). -/
def clientWait (t : Nat) (rest : List ClientItem) (s : State) : State :=
  if s.hung then s else delay t { s with client := { s.client with items := rest } }

/-- A client that cannot be constructed (R157). -/
inductive ConstructionError where
  /-- "InvalidGeometry (rows/columns ≤0, rejected at construction)". -/
  | invalidGeometry
  deriving DecidableEq, Repr

/-- The construction of a client with its block (R157): a geometry that is not positive is refused and no request reaches
the block. -/
def constructClient (p : Params) (c : ClientParams) : ConstructionError ⊕ State :=
  if c.wf then .inr (State.construct p c) else .inl .invalidGeometry

end Sys2Proof.Machine
end

