-- ==== Sys2Proof/Machine/Backlight.lean ====
section
/-! DEFINITION. The backlight-bit overlay's one request: `SETBL` (42_backlight.md R145). The overlay itself is part of
`expanderWord` (R81, R146). -/

namespace Sys2Proof.Machine

/-- `SETBL v` (R145): accepted in either operating state; the one bus write follows as a step. -/
def execSetbl (v : Bit) (s : State) : Host.Outcome State Fault Refusal := .next (start .setbl (setBacklight v s))

end Sys2Proof.Machine
end

