-- ==== Sys2Proof/Machine/ByteTransfer.lean ====
section
/-! DEFINITION. The byte transfer family: `WRCMD` and `WRDATA` (40_byte_transfer.md R113, R114). A meaning is what the
acceptance of the request does (10_state.md R25); the six bus writes follow as steps of the micro-program `XFER`. -/

namespace Sys2Proof.Machine

/-- The acceptance of a byte with mode `rs` (R25): refused with `UNINIT` while `INITED = 0` (R182), otherwise latched
into `DR` and `RSR` (R21, R22). -/
def acceptByte (rs : Bit) (b : Byte) (s : State) : State :=
  if s.inited then start .xfer (latchByte b rs s) else raise .uninit s

/-- `WRCMD b` (R113). -/
def execWrcmd (b : Byte) (s : State) : Host.Outcome State Fault Refusal := .next (acceptByte 0 b s)

/-- `WRDATA b` (R114). -/
def execWrdata (b : Byte) (s : State) : Host.Outcome State Fault Refusal := .next (acceptByte 1 b s)

end Sys2Proof.Machine
end

