-- ==== Sys2Proof/Machine/Initialisation.lean ====
section
/-! DEFINITION. The nibble-mode initialisation sequence: `INIT` (41_init.md R131). The meaning is what the acceptance of
the request does (10_state.md R25); the twelve bus writes and two delays follow as steps of the micro-program `INIT`, and
`complete` sets `INITED`. -/

namespace Sys2Proof.Machine

/-- `INIT` (R130, R131): accepted in either operating state. -/
def execInit (s : State) : Host.Outcome State Fault Refusal :=
  .next (start .init (beginInit s.clearInited))

end Sys2Proof.Machine
end

