-- ==== Sys2Proof/Machine/Dispatch.lean ====
section
/-! DEFINITION. One arm per request (10_state.md R25: the acceptance step, by `case decode(q) of`). -/

namespace Sys2Proof.Machine

def exec (i : Instr) (s : State) : Host.Outcome State Fault Refusal :=
  match i with
  | .wrcmd b => Sys2Proof.Machine.execWrcmd b s
  | .wrdata b => Sys2Proof.Machine.execWrdata b s
  | .init => Sys2Proof.Machine.execInit s
  | .setbl v => Sys2Proof.Machine.execSetbl v s

end Sys2Proof.Machine
end

