-- ==== Sys2Proof/Machine/Request.lean ====
section
/-! DEFINITION. The request port: what happens when `SEQ = IDLE` (10_state.md R25). -/

namespace Sys2Proof.Machine

/-- The acceptance of the request word `q`: `emit Req(q)`, then by `case decode(q) of` (R25). -/
def accept (q : RequestWord) (rest : List ClientItem) (s : State) : Host.Outcome State Fault Refusal :=
  match decode q with
  | .request i => exec i (takeRequest q rest s)
  | .illegal _ => .next (raise .illegalReq (takeRequest q rest s))

/-- The step of R25 when `SEQ = IDLE`: the client's next item, a request word or a wait; with none, the client's turn, in
which the block does nothing. -/
def idleStep (s : State) : Host.Outcome State Fault Refusal :=
  match s.client.items with
  | .request q :: rest => accept q rest s
  | .wait t :: rest => .next (clientWait t rest s)
  | [] => .next (clientTurn s)

end Sys2Proof.Machine
end

