-- ==== Sys2Proof/Machine/Step.lean ====
section
/-! DEFINITION. One step of the machine, which is the step relation of 10_state.md R25. -/

namespace Sys2Proof.Machine

/-- One step (R25): when `SEQ = RUN(op, i)` the block performs micro-step `i`, and no item of the client is looked at (R29,
R63); when `SEQ = IDLE` the client's next item is taken. -/
def step (s : State) : Host.Outcome State Fault Refusal :=
  match s.seq with
  | .run op i => .next (runMicroStep op i s)
  | .idle => idleStep s

/-- `s` with the request word made of the `nbits` bits of `w` offered on the request port and the block ready to take it, so
that the next step accepts it (log 7). A number that does not fit the 10-bit port is no request word (log 14). -/
def State.withFetchWord (s : State) (nbits w : Nat) : State :=
  match tableWord nbits w with
  | some q => { offer q s with seq := .idle }
  | none => s

end Sys2Proof.Machine
end

