-- ==== Sys2Proof/Machine/TextForm.lean ====
section
/-! DEFINITION. The text form of requests, one line each (30_encoding.md R91), read from a list of characters. -/

namespace Sys2Proof.Machine

/-- A line of a program: a request to the block, or a client delay, which has no encoding (R91). -/
inductive Line where
  | request (i : Instr)
  | wait (ms : Nat)
  deriving DecidableEq, Repr

/-- Skip spaces. -/
def skipSpaces (cs : List Char) : List Char := cs.dropWhile (· == ' ')

/-- Only spaces and a comment that starts with `;` may follow (R91). -/
def lineEnds (cs : List Char) : Bool :=
  match skipSpaces cs with
  | [] => true
  | c :: _ => c == ';'

/-- The letters of the hexadecimal numerals `0xA` to `0xF`; both cases are read (log 16). -/
def letterValue : Char → Option Nat
  | 'A' | 'a' => some 0xA
  | 'B' | 'b' => some 0xB
  | 'C' | 'c' => some 0xC
  | 'D' | 'd' => some 0xD
  | 'E' | 'e' => some 0xE
  | 'F' | 'f' => some 0xF
  | _ => none

/-- The value of a decimal digit. -/
def digitValue (c : Char) : Option Nat := if c.isDigit then some (c.toNat % 16) else none

/-- The value of one of the two digits behind `0x` (R91). -/
def nibbleValue (c : Char) : Option Nat := digitValue c <|> letterValue c

/-- The operand `<byte>`: `0x00..0xFF` with two digits, or a character in single quotes (R91). A character above 255 is
no byte (log 16). -/
def readByte (cs : List Char) : Option (Byte × List Char) :=
  match cs with
  | '0' :: 'x' :: h :: l :: rest =>
    match nibbleValue h, nibbleValue l with
    | some a, some b => some (BitVec.ofNat 8 (16 * a + b), rest)
    | _, _ => none
  | '\'' :: c :: '\'' :: rest => if c.toNat < 256 then some (BitVec.ofNat 8 c.toNat, rest) else none
  | _ => none

/-- The operand `<bit>`: `0` or `1` (R91). -/
def readBit (cs : List Char) : Option (Bit × List Char) :=
  match cs with
  | '0' :: rest => some (0, rest)
  | '1' :: rest => some (1, rest)
  | _ => none

/-- Decimal digits, after those read so far. -/
def readDigits (n : Nat) : List Char → Nat × List Char
  | [] => (n, [])
  | c :: rest =>
    match digitValue c with
    | some d => readDigits (10 * n + d) rest
    | none => (n, c :: rest)

/-- The operand `<ms>`: a decimal number with at least one digit. -/
def readMs (cs : List Char) : Option (Nat × List Char) :=
  match cs with
  | [] => none
  | c :: rest => (digitValue c).map (fun d => readDigits d rest)

/-- What an operand gives, if the line ends behind it. -/
def closeLine {α : Type} (f : α → Line) : Option (α × List Char) → Option Line
  | none => none
  | some (a, rest) => if lineEnds rest then some (f a) else none

/-- A line in the text form of R91; none when it is no such line. -/
def readLine (cs : List Char) : Option Line :=
  match skipSpaces cs with
  | 'W' :: 'R' :: 'C' :: 'M' :: 'D' :: ' ' :: rest => closeLine (fun b => .request (.wrcmd b)) (readByte (skipSpaces rest))
  | 'W' :: 'R' :: 'D' :: 'A' :: 'T' :: 'A' :: ' ' :: rest =>
    closeLine (fun b => .request (.wrdata b)) (readByte (skipSpaces rest))
  | 'I' :: 'N' :: 'I' :: 'T' :: rest => if lineEnds rest then some (.request .init) else none
  | 'S' :: 'E' :: 'T' :: 'B' :: 'L' :: ' ' :: rest => closeLine (fun v => .request (.setbl v)) (readBit (skipSpaces rest))
  | 'W' :: 'A' :: 'I' :: 'T' :: ' ' :: rest => closeLine .wait (readMs (skipSpaces rest))
  | _ => none

/-- The request word of a line, none for a wait (R91). -/
def Line.word : Line → Option RequestWord
  | .request i => some (encode i)
  | .wait _ => none

end Sys2Proof.Machine
end

