-- ==== Sys2Proof/Safety.lean ====
section
/-! DEFINITION. The terms in which claims about runs are made: the closed forms of the rules (40_byte_transfer.md R115,
41_init.md R133, 42_backlight.md R145), invariants (10_state.md R40), and monitors that read a trace (R27, R216). Nothing
here is used by the step. -/

namespace Sys2Proof.Safety

open Sys2Proof.Machine

/-- `n` steps of the machine, stopping where it stops. -/
def runSteps : Nat → State → Host.Outcome State Fault Refusal
  | 0, s => .next s
  | n + 1, s =>
    match step s with
    | .next t => runSteps n t
    | .fault r => .fault r
    | .refused r => .refused r

/-- From `s` to `t` the trace grows by exactly `es`. -/
def Emits (s t : State) (es : List Event) : Prop := t.trace = s.trace ++ es

/-! ## Closed forms -/

/-- Bits 3 and 0 of every word of a transfer: `(k << 3) | rs` (R115). -/
def lineBits (k rs : Bit) : Byte := (k.setWidth 8 <<< 3) ||| rs.setWidth 8

/-- `XferTrace(b, rs, k)` (R115), by shift and mask. -/
def xferTrace (b : Byte) (rs k : Bit) : List Byte :=
  let h := (b &&& 0xF0) ||| lineBits k rs
  let l := ((b <<< 4) &&& 0xF0) ||| lineBits k rs
  [h, h ||| 0x04, h, l, l ||| 0x04, l]

/-- What an operation is to do: a bus write or a delay. -/
inductive Planned where
  | write (w : Byte)
  | wait (t : Nat)
  deriving DecidableEq, Repr

/-- The plan of a transfer (R115). -/
def xferPlan (b : Byte) (rs k : Bit) : List Planned := (xferTrace b rs k).map .write

/-- The plan of `INIT` (R133). -/
def initPlan (k : Bit) (t₁ t₂ : Nat) : List Planned :=
  let a := 0x30#8 ||| lineBits k 0
  let c := 0x20#8 ||| lineBits k 0
  [.write a, .write (a ||| 0x04), .write a, .wait t₁,
   .write a, .write (a ||| 0x04), .write a, .wait t₂,
   .write a, .write (a ||| 0x04), .write a,
   .write c, .write (c ||| 0x04), .write c]

/-- The plan of `SETBL v` (R145): the word is `v << 3`. -/
def setblPlan (v : Bit) : List Planned := [.write (lineBits v 0)]

/-- The plan of an operation that starts in `s`. -/
def opPlan (s : State) : Op → List Planned
  | .xfer  => xferPlan s.dr s.rsr s.bl
  | .init  => initPlan s.bl s.params.tInit1Ms s.params.tInit2Ms
  | .setbl => setblPlan s.bl

/-- What a plan leads to when the `k`-th bus write from now has the result `answer k`: the events, and the response. Under
`propagate` the first failed write is the last event (R116, R135, R184), under `ignore` nothing is left out (R186). -/
def carryOut (policy : BusErrPolicy) (a : BusAddr) (answer : Nat → BusResult) : Nat → List Planned → List Event × Response
  | _, [] => ([], .ok)
  | k, .write w :: rest =>
    if answer k = .fail ∧ policy = .propagate then ([.bus a w .fail], .busFail)
    else (.bus a w (answer k) :: (carryOut policy a answer (k + 1) rest).1, (carryOut policy a answer (k + 1) rest).2)
  | k, .wait t :: rest => (.wait t :: (carryOut policy a answer k rest).1, (carryOut policy a answer k rest).2)

/-- What a plan leads to from state `s`. -/
def outcome (s : State) (plan : List Planned) : List Event × Response :=
  carryOut s.params.policy s.addr s.answer 0 plan

/-- What is known of `PORT` after some events of the block (R34). -/
def portAfterEvents : Option Byte → List Event → Option Byte
  | p, [] => p
  | _, .bus _ w r :: rest => portAfterEvents (portAfter w r) rest
  | p, .req _ :: rest => portAfterEvents p rest
  | p, .wait _ :: rest => portAfterEvents p rest
  | p, .resp _ :: rest => portAfterEvents p rest

/-- The entries that some events of the block make in the latch trace (R35), when `PORT` was `p` before them; of what is
latched from a failed write on nothing is known, nor when the trace was `lost` before (U6, R211). -/
def latchesOf : Bool → Option Byte → List Event → List LatchEvent
  | _, _, [] => []
  | lost, p, .bus _ w r :: rest =>
    (latchEntry lost (latchOf p w r)).toList ++ latchesOf (lost || r == .fail) (portAfter w r) rest
  | lost, p, .req _ :: rest => latchesOf lost p rest
  | lost, p, .wait _ :: rest => latchesOf lost p rest
  | lost, p, .resp _ :: rest => latchesOf lost p rest

/-- What the display is after some events of the block, when `PORT` was `p` before them. -/
def displayAfter : Option Byte → Display → List Event → Display
  | _, d, [] => d
  | p, d, .bus _ w r :: rest => displayAfter (portAfter w r) (d.observe p w r) rest
  | p, d, .req _ :: rest => displayAfter p d rest
  | p, d, .wait _ :: rest => displayAfter p d rest
  | p, d, .resp _ :: rest => displayAfter p d rest

/-- The bus events of successful writes of `ws` to `a`. -/
def okWrites (a : BusAddr) (ws : List Byte) : List Event := ws.map (fun w => .bus a w .ok)

/-- `INITED` after an operation that answered `c` (R27). -/
def initedAfter (op : Op) (c : Response) (before : Bool) : Bool :=
  match c, op with
  | .ok, .init => true
  | .ok, .xfer => before
  | .ok, .setbl => before
  | _, _ => false

/-! ## Invariants of the bus (R40 a, b, d, f) -/

/-- The last bus write of the operation so far was a raise, so Enable is high if the port is known (R24). -/
def raisedBefore : Seq → Bool
  | .idle => false
  | .run .xfer i => i.val == 2 || i.val == 5
  | .run .init i => i.val == 2 || i.val == 6 || i.val == 10 || i.val == 13
  | .run .setbl _ => false

/-- The write of a `SETBL` is still to come, so the port may show the old backlight bit (R145). -/
def backlightPending : Seq → Bool
  | .idle => false
  | .run .xfer _ => false
  | .run .init _ => false
  | .run .setbl _ => true

/-- R40: what every reachable state satisfies about the parameters, the bus and the pins. -/
structure BusInv (s : State) : Prop where
  /-- The bus address space is in canonical form. -/
  memCanonical : Memory.wf s.mem
  /-- The parameters are within the bounds of R7. -/
  paramsLegal  : s.params.wf = true
  /-- Every bus write went to `ADDR` (f), with bit 1 clear (a). -/
  busEvents    : ∀ a w r, Event.bus a w r ∈ s.trace → a = s.addr ∧ Byte.bit w 1 = false
  /-- `RW` is low. -/
  rwLow        : ∀ p, s.port = some p → Byte.bit p 1 = false
  /-- Enable is high exactly after a raise; between operations it is low (d). -/
  enable       : ∀ p, s.port = some p → enablePin p = raisedBefore s.seq
  /-- The backlight pin shows `BL` (b, R225). -/
  backlight    : ∀ p, s.port = some p → backlightPending s.seq = false → Byte.bit p 3 = s.bl.getLsbD 0
  /-- The display is in an initialisation only while an `INIT` runs. -/
  initialising : ∀ held, s.display.phase = .initialising held → ∃ i, s.seq = .run .init i
  /-- While the latch trace is lost, so is the pairing of nibbles (U6, R211). -/
  lostPhase    : s.display.lost = true → s.display.phase = .unknown ∨ ∃ held, s.display.phase = .initialising held

/-! ## The pairing of nibbles (R36, R58) -/

/-- Under `propagate`, in state `READY`: the phase the display is in. -/
def readyPhase (s : State) : Seq → NibblePhase → Prop
  | .idle, ph => ph = .high
  | .run .setbl _, ph => ph = .high
  | .run .xfer i, ph => if i.val < 3 then ph = .high else ph = .low s.rsr (highNibble s.dr)
  | .run .init _, _ => False

/-- Under `propagate` nibbles reach the display in pairs: in state `READY` the pins and the latch trace are known and the
display is in the phase the sequencer is in; while an `INIT` runs no write of it has failed. -/
def Paired (s : State) : Prop :=
  s.params.policy = .propagate →
    (s.inited = true →
      (∃ p, s.port = some p ∧ enablePin p = raisedBefore s.seq) ∧ s.display.lost = false ∧
      readyPhase s s.seq s.display.phase) ∧
    (∀ i, s.seq = .run .init i →
      s.inited = false ∧ (∃ held, s.display.phase = .initialising held) ∧
      (0 < i.val → ∃ p, s.port = some p ∧ enablePin p = raisedBefore s.seq))

/-! ## After reset (R211) -/

/-- The block has been reset and has written nothing yet; the write of an `INIT` or a `SETBL` may be next. -/
structure Untouched (s : State) : Prop where
  noBus  : ∀ a w r, Event.bus a w r ∉ s.trace
  port   : s.port = none
  uninit : s.inited = false
  before : s.seq = .idle ∨ s.seq = .run .init ⟨0, Op.len_pos .init⟩ ∨ s.seq = .run .setbl ⟨0, Op.len_pos .setbl⟩

/-! ## `INITED` read off the trace (R27, R192) -/

/-- What a reader of the trace knows: the request not yet answered, and whether the block is `READY`. -/
structure Reader where
  pending : Option RequestWord := none
  ready   : Bool := false
  deriving DecidableEq, Repr

/-- "Entered: `UNINIT` by reset, by the acceptance of `INIT`, by a failed bus write under `propagate`; `READY` by the
completion of `INIT`" (R192). -/
def Reader.read (policy : BusErrPolicy) (m : Reader) : Event → Reader
  | .req q => { pending := some q, ready := m.ready && q != 0x200#10 }
  | .bus _ _ .ok => m
  | .bus _ _ .fail =>
    match policy with
    | .propagate => { m with ready := false }
    | .ignore => m
  | .wait _ => m
  | .resp c => { pending := none, ready := m.ready || (c == .ok && m.pending == some 0x200#10) }

/-- The reader after a whole trace. -/
def readTrace (policy : BusErrPolicy) (tr : List Event) : Reader := tr.foldl (Reader.read policy) {}

/-- The operation a request starts (R25). -/
def opOf : Instr → Op
  | .wrcmd _  => .xfer
  | .wrdata _ => .xfer
  | .init     => .init
  | .setbl _  => .setbl

/-- `INITED` is what the trace says, and the sequencer runs the operation of the request not yet answered. -/
def FollowsTrace (s : State) : Prop :=
  (readTrace s.params.policy s.trace).ready = s.inited ∧
  match s.seq with
  | .idle => (readTrace s.params.policy s.trace).pending = none
  | .run op _ => ∃ i, (readTrace s.params.policy s.trace).pending = some (encode i) ∧ opOf i = op

/-! ## The 2 ms after clear and home (R216) -/

/-- The request is `WRCMD 0x01` or `WRCMD 0x02`. -/
def clears (q : RequestWord) : Bool := q == 0x001#10 || q == 0x002#10

/-- The request sends a byte. -/
def sendsByte (q : RequestWord) : Bool :=
  match decode q with
  | .request (.wrcmd _) => true
  | .request (.wrdata _) => true
  | .request .init => false
  | .request (.setbl _) => false
  | .illegal _ => false

/-- A watch on R216: the request not yet answered, the milliseconds still owed, whether the rule was kept so far. -/
structure ClearWatch where
  last : Option RequestWord := none
  owed : Nat := 0
  kept : Bool := true
  deriving DecidableEq, Repr

/-- The request not yet answered is one of those. -/
def ClearWatch.pending (m : ClearWatch) (f : RequestWord → Bool) : Bool :=
  match m.last with
  | some q => f q
  | none => false

/-- "The wait counts from the response of the `WRCMD`", whatever the response is; a bus write of a byte request before it has
passed breaks the rule (R216). -/
def ClearWatch.see (m : ClearWatch) : Event → ClearWatch
  | .req q => { m with last := some q }
  | .bus _ _ _ =>
    { m with kept := m.kept && (m.owed == 0 || !m.pending sendsByte) }
  | .wait t => { m with owed := m.owed - t }
  | .resp _ =>
    { m with
      last := none
      owed := if m.pending clears = true then clearWaitMs else m.owed }

/-- The watch after a whole trace. -/
def watch (tr : List Event) : ClearWatch := tr.foldl ClearWatch.see {}

/-- R216 was kept in the trace. -/
def clearWaitKept (tr : List Event) : Bool := (watch tr).kept

/-- Every clear or home request is followed by its wait. -/
def guarded : List ClientItem → Bool
  | [] => true
  | .wait _ :: rest => guarded rest
  | .request q :: rest => (!clears q || rest.head? == some (.wait clearWaitMs)) && guarded rest

/-- The call is a macro or a wait, not a request issued directly. -/
def isMacro : ClientCall → Bool
  | .raw _          => false
  | .wait _         => true
  | .bringUp        => true
  | .clear          => true
  | .home           => true
  | .moveCursor _ _ => true
  | .putChar _      => true
  | .putString _    => true

/-- None of the three bytes of `INITIALIZE` is itself a clear or a home command. -/
def bytesNoClear (p : ClientParams) : Bool :=
  [p.fsByte, p.dcByte, p.emByte].all (fun b => b != cmdClear && b != cmdHome)

/-- A client that uses only macros, at any moment of a run: R216 was kept, what is still owed is about to be waited out, and
every clear or home request still to come has its wait behind it. -/
structure MacroClient (s : State) : Prop where
  kept       : clearWaitKept s.trace = true
  callsMacro : s.client.calls.all isMacro = true
  bytes      : bytesNoClear s.client.params = true
  itemsGuard : guarded s.client.items = true
  whenIdle   : s.seq = .idle → (watch s.trace).last = none ∧
                 ((watch s.trace).owed = 0 ∨
                   ∃ t rest, s.client.items = .wait t :: rest ∧ (watch s.trace).owed ≤ t)
  whenBusy   : s.busy = true → ∃ q, (watch s.trace).last = some q ∧ (watch s.trace).owed = 0 ∧
                 (clears q = true → ∃ rest, s.client.items = .wait clearWaitMs :: rest)

end Sys2Proof.Safety
end

