-- ==== Sys2Proof/Certificates/Slice0/Obligations.lean ====
section
/-! DEFINITION. The statements for the provers, from the numbered rules of spec/. A docstring names the rule; where a
clause is a decision of the spec (D<n>) or a choice of the model (log <n>) it says so. -/

open Sys2Proof Sys2Proof.Machine Sys2Proof.Safety

/-! ## Encodings -/

/-- 95_test_vectors.md 2.4: sample words of every request, and reserved words, decode as the table there says. -/
def Obligations.SampleWordsDecode : Prop :=
  decode 0b0010000000#10 = .request (.wrcmd 0x80) ∧
  decode 0b0011111111#10 = .request (.wrcmd 0xFF) ∧
  decode 0b0101000001#10 = .request (.wrdata 0x41) ∧
  decode 0b1000000000#10 = .request .init ∧
  decode 0b1100000000#10 = .request (.setbl 0) ∧
  decode 0b1100000001#10 = .request (.setbl 1) ∧
  decode 0b1000000001#10 = .illegal .initPayload ∧
  decode 0b1100000011#10 = .illegal .setblPayload

/-- R85, R86: decoding and encoding are inverse to each other, for every request with every operand and for every word. -/
def Obligations.DecodeAndEncodeAreInverse : Prop :=
  (∀ i : Instr, decode (encode i) = .request i) ∧
  (∀ (q : RequestWord) (i : Instr), decode q = .request i → encode i = q)

/-- R88: the reserved words are exactly the two ranges the rule gives. -/
def Obligations.ReservedWordsAreTheTwoRanges : Prop :=
  ∀ q : RequestWord,
    (decode q = .illegal .initPayload ↔ 0x201 ≤ q.toNat ∧ q.toNat ≤ 0x2FF) ∧
    (decode q = .illegal .setblPayload ↔ 0x302 ≤ q.toNat ∧ q.toNat ≤ 0x3FF)

/-- R85: a word built from the two fields of format `RQ` decodes to a request exactly when the fields are well formed. -/
def Obligations.WellFormedFieldsDecode : Prop :=
  ∀ f : RequestFields, f.wf = true ↔ ∃ i, decode f.word = .request i

/-- R86: the match and mask of every row of the table select exactly the words the decoder reads as that row's request, and
no word belongs to two rows. -/
def Obligations.OpcodeTableMatchesTheDecoder : Prop :=
  (∀ r ∈ opcodeRows, ∀ q : RequestWord, r.covers q = true ↔ ∃ i, decode q = .request i ∧ i.mnemonic = r.mnemonic) ∧
  (∀ r ∈ opcodeRows, ∀ r' ∈ opcodeRows, ∀ q : RequestWord, r.covers q = true → r'.covers q = true → r = r')

/-- R91: the text lines the rule gives as examples are read as their requests, with their words; a client delay has no
encoding. -/
def Obligations.TextLinesHaveTheirWords : Prop :=
  readLine ['W', 'R', 'C', 'M', 'D', ' ', '0', 'x', '8', '0'] = some (.request (.wrcmd 0x80)) ∧
  encode (.wrcmd 0x80) = 0x080 ∧
  readLine ['W', 'R', 'D', 'A', 'T', 'A', ' ', '0', 'x', '4', '1'] = some (.request (.wrdata 0x41)) ∧
  readLine ['W', 'R', 'D', 'A', 'T', 'A', ' ', '\'', 'A', '\'', ' ', ';', 'A'] = some (.request (.wrdata 0x41)) ∧
  encode (.wrdata 0x41) = 0x141 ∧
  readLine ['I', 'N', 'I', 'T'] = some (.request .init) ∧ encode .init = 0x200 ∧
  readLine ['S', 'E', 'T', 'B', 'L', ' ', '1'] = some (.request (.setbl 1)) ∧ encode (.setbl 1) = 0x301 ∧
  readLine ['S', 'E', 'T', 'B', 'L', ' ', '0'] = some (.request (.setbl 0)) ∧ encode (.setbl 0) = 0x300 ∧
  readLine ['W', 'A', 'I', 'T', ' ', '2'] = some (.wait 2) ∧ (Line.wait 2).word = none

/-- R89: the four codes have the numbers the table gives (decision D3), and a response word reads back as its code. -/
def Obligations.ResponseWordsNumberTheCodes : Prop :=
  Response.word .ok = 0b00 ∧ Response.word .busFail = 0b01 ∧ Response.word .uninit = 0b10 ∧
  Response.word .illegalReq = 0b11 ∧
  (∀ c : Response, Response.ofWord c.word = c) ∧ (∀ w : ResponseWord, (Response.ofWord w).word = w)

/-- R81: the fields of the expander word, its closed form, the four masks, and that `BL` is read when the word is built. -/
def Obligations.ExpanderWordHasItsFields : Prop :=
  ∀ (n : Nibble) (bl rs en : Bit),
    (expanderWord n bl rs en).extractLsb' 4 4 = n ∧
    (expanderWord n bl rs en).extractLsb' 3 1 = bl ∧
    (expanderWord n bl rs en).extractLsb' 2 1 = en ∧
    (expanderWord n bl rs en).extractLsb' 1 1 = 0 ∧
    (expanderWord n bl rs en).extractLsb' 0 1 = rs ∧
    expanderWord n bl rs en =
      (n.setWidth 8 <<< 4) ||| (bl.setWidth 8 <<< 3) ||| (en.setWidth 8 <<< 2) ||| rs.setWidth 8 ∧
    expanderWord n bl rs en &&& 0x01 = rs.setWidth 8 ∧
    expanderWord n bl rs en &&& 0x02 = 0 ∧
    expanderWord n bl rs en &&& 0x04 = en.setWidth 8 <<< 2 ∧
    expanderWord n bl rs en &&& 0x08 = bl.setWidth 8 <<< 3 ∧
    expanderWord n bl rs en &&& 0xF0 = n.setWidth 8 <<< 4 ∧
    ∀ (src : NibbleSource) (m : ModeSource) (s : State),
      writeWord src m en s = expanderWord (src.value s) s.bl (m.value s) en

/-- R83: for a nibble with a mode the block writes setup, raise, drop; the second word is the first with `EN_BIT` set, the
third equals the first. -/
def Obligations.NibblePulseIsSetupRaiseDrop : Prop :=
  ∀ (n : NibbleSource) (m : ModeSource) (s : State),
    nibblePulse n m = [.write n m 0, .write n m 1, .write n m 0] ∧
    writeWord n m 1 s = writeWord n m 0 s ||| 0x04 ∧
    writeWord n m 0 s &&& 0x04 = 0

/-! ## Reset -/

/-- R39: the state after construction, for all parameters. The values of `DR` and `RSR` are the model's choice (log 5) and
are not stated. -/
def Obligations.ConstructionGivesTheResetTable : Prop :=
  ∀ (p : Params) (c : ClientParams),
    (State.construct p c).seq = .idle ∧ (State.construct p c).inited = false ∧
    (State.construct p c).bl = p.blReset ∧ (State.construct p c).addr = p.addr ∧
    (State.construct p c).busy = false ∧ (State.construct p c).port = none ∧
    (State.construct p c).display.phase = .unknown ∧ (State.construct p c).trace = [] ∧
    (State.construct p c).operatingState = .uninit

/-- R210, R198 (decision D11): a reset brings a block in any state, hung or not, back to `IDLE` in `UNINIT` with its
parameters, clears the hang, and does not touch the display: its latch trace stays (what an interrupted `INIT` had not yet made
known is left unknown: the model's reading, log 9), the bytes it received stay, only what is known of its phase and of `PORT`
is lost. That the client is left as it was is the model's choice (log 17), of which no rule speaks. The values of `DR` and `RSR` are the model's
choice too (log 5) and are not stated. -/
def Obligations.ExternalResetPutsTheBlockInItsResetState : Prop :=
  ∀ s : State,
    s.externalReset.seq = .idle ∧ s.externalReset.inited = false ∧ s.externalReset.bl = s.params.blReset ∧
    s.externalReset.params = s.params ∧ s.externalReset.port = none ∧ s.externalReset.trace = [] ∧
    s.externalReset.hung = false ∧ s.externalReset.display.phase = .unknown ∧ s.externalReset.client = s.client ∧
    (∃ es, s.externalReset.display.latches = s.display.latches ++ es ∧ (∀ e ∈ es, e = .uncertain) ∧
      ((∀ held, s.display.phase ≠ .initialising held) → es = [])) ∧
    s.externalReset.display.received = s.display.received ∧
    s.externalReset.addr = s.addr ∧ s.externalReset.operatingState = .uninit ∧
    ∀ a, a ≠ s.addr → s.externalReset.portAt a = s.portAt a

/-- R211 (decision D11): the block writes nothing at reset, and the first bus write after it is the first micro-step of an
`INIT` or a `SETBL`: a reset block has written nothing, `PORT` has no known value, and a step leaves that so unless it is that
write. -/
def Obligations.FirstWriteAfterResetIsOfInitOrSetbl : Prop :=
  (∀ (p : Params) (c : ClientParams), Untouched (State.construct p c)) ∧
  (∀ s : State, Untouched s.externalReset) ∧
  ∀ s t : State, Untouched s → step s = .next t →
    Untouched t ∨
    ∃ (op : Op) (n : NibbleSource) (m : ModeSource) (en : Bit) (r : BusResult) (es : List Event),
      (op = .init ∨ op = .setbl) ∧ s.seq = .run op ⟨0, op.len_pos⟩ ∧ microStep op ⟨0, op.len_pos⟩ = .write n m en ∧
      Emits s t (.bus s.addr (writeWord n m en s) r :: es)

/-- R211, U14 of 93_implementation_defined.md: what the display latches before the first completed `INIT` after a reset is
unknown: until then a run adds only latches of which nothing is known, whatever the bus answers. That an `INIT` cut short
makes none known either is the model's reading of R211 beside R35, kept in `Display.lost` (log 9). -/
def Obligations.LatchTraceIsUnknownBeforeTheFirstCompletedInit : Prop :=
  (∀ (p : Params) (c : ClientParams), (State.construct p c).display.lost = true ∧
    (State.construct p c).display.latches = []) ∧
  (∀ s : State, s.externalReset.display.lost = true) ∧
  ∀ (n : Nat) (s t : State), s.display.lost = true → runSteps n s = .next t →
    (∀ m u, m ≤ n → runSteps m s = .next u → u.inited = false) →
    t.display.lost = true ∧
    ∃ es, t.display.latches = s.display.latches ++ es ∧ ∀ e ∈ es, e = .uncertain

/-! ## The acceptance of requests (10_state.md R25) -/

/-- R25, R113, R114: in state `READY` a byte request is accepted: its byte and mode are latched and the transfer starts.
Nothing else changes. -/
def Obligations.ByteRequestInReadyStartsTheTransfer : Prop :=
  ∀ (b : Byte) (s : State), s.inited = true →
    exec (.wrcmd b) s = .next { s with dr := b, rsr := 0, seq := .run .xfer ⟨0, Op.len_pos .xfer⟩ } ∧
    exec (.wrdata b) s = .next { s with dr := b, rsr := 1, seq := .run .xfer ⟨0, Op.len_pos .xfer⟩ }

/-- R25, R130: `INIT` is accepted in every state: `INITED` is cleared and the sequence starts. That the display's phase is
tracked from here on is the model's book-keeping (log 9). -/
def Obligations.InitIsAlwaysAccepted : Prop :=
  ∀ s : State,
    exec .init s =
      .next { s with inited := false, seq := .run .init ⟨0, Op.len_pos .init⟩, display := s.display.beginInit }

/-- R25, R145: `SETBL v` is accepted in every state: `BL` takes the value and the write starts. Nothing else changes. -/
def Obligations.SetblIsAlwaysAccepted : Prop :=
  ∀ (v : Bit) (s : State), exec (.setbl v) s = .next { s with bl := v, seq := .run .setbl ⟨0, Op.len_pos .setbl⟩ }

/-- R182 (decision D9): with `INITED = 0` both byte requests are answered `UNINIT` and no state of the block, the bus or the
display changes, no delay is made; `INIT` and `SETBL` never raise it. The client learns the code. -/
def Obligations.ByteRequestBeforeInitIsRefused : Prop :=
  (∀ (b : Byte) (s : State), s.inited = false → s.seq = .idle →
    exec (.wrcmd b) s =
      .next { s with trace := s.trace ++ ([.resp .uninit] : List Event), client := s.client.onResponse .uninit } ∧
    exec (.wrdata b) s =
      .next { s with trace := s.trace ++ ([.resp .uninit] : List Event), client := s.client.onResponse .uninit }) ∧
  (∀ (v : Bit) (s : State), ∃ t u, exec .init s = .next t ∧ t.trace = s.trace ∧ t.busy = true ∧
    exec (.setbl v) s = .next u ∧ u.trace = s.trace ∧ u.busy = true)

/-- R183 (decision D15): a reserved word offered to an idle block is answered `ILLEGAL_REQ` in either operating state, and no
state of the block, the bus or the display changes, no bus write and no delay is made. The client learns the code. -/
def Obligations.ReservedWordIsRefused : Prop :=
  ∀ (q : RequestWord) (why : Reserved) (rest : List ClientItem) (s : State),
    decode q = .illegal why → s.seq = .idle → s.client.items = .request q :: rest →
    step s = .next { s with
      trace := s.trace ++ ([.req q, .resp .illegalReq] : List Event)
      client := (s.client.take rest).onResponse .illegalReq }

/-- R192: the table of the two operating states. A request starts an operation exactly where the table says "accepted and
executed"; elsewhere it is answered at once and the block stays idle. -/
def Obligations.OperatingStateDecidesWhatExecutes : Prop :=
  ∀ (i : Instr) (s : State), s.seq = .idle →
    ∃ t, exec i s = .next t ∧
      (s.operatingState.executes i = true → t.busy = true ∧ t.trace = s.trace) ∧
      (s.operatingState.executes i = false → t.busy = false ∧ Emits s t [.resp .uninit])

/-- R41: the frame of the acceptance of each request. No acceptance stores to the bus: every bus address keeps what it held. -/
def Obligations.AcceptanceFrame : Prop :=
  ∀ (i : Instr) (s t : State), exec i s = .next t →
    t.params = s.params ∧ t.env = s.env ∧ (∀ a, t.portAt a = s.portAt a) ∧
    t.display.latches = s.display.latches ∧ t.display.received = s.display.received ∧
    ((∀ b, i ≠ .wrcmd b ∧ i ≠ .wrdata b) → t.dr = s.dr ∧ t.rsr = s.rsr) ∧
    ((∀ v, i ≠ .setbl v) → t.bl = s.bl) ∧
    (i ≠ .init → t.inited = s.inited ∧ t.display = s.display) ∧
    (s.operatingState.executes i = true → t.client = s.client ∧ t.trace = s.trace) ∧
    (s.operatingState.executes i = false → t.dr = s.dr ∧ t.rsr = s.rsr ∧ t.bl = s.bl ∧ t.inited = s.inited)

/-- A step runs the decoded request (R25): when the block is idle and the word at the head of the client's items decodes to
`i`, the step is the meaning of `i` after the word is taken from the port and `Req` is emitted. Taking it changes nothing of
the client but its items, its stored cursor and what is still to move that (when, is the model's choice: log 10). -/
def Obligations.StepRunsTheDecodedRequest : Prop :=
  (∀ (k : Client) (rest : List ClientItem), ∃ (ms : List CursorMove) (cur : Cursor) (n : Nat),
    k.take rest = { k with items := rest, moves := ms, cursor := cur, puts := n }) ∧
  ∀ (q : RequestWord) (i : Instr) (rest : List ClientItem) (s : State),
    decode q = .request i → s.seq = .idle → s.client.items = .request q :: rest →
    step s = exec i { s with client := s.client.take rest, trace := s.trace ++ ([.req q] : List Event) }

/-! ## Operations from start to response -/

/-- The headline: an operation that has been accepted runs its plan, the closed form the rules give (R115, R133, R145), for
every choice of results of its bus writes and under both policies (R116, R135, R184, R186), and ends with exactly one
response, as many steps later as it makes bus writes and delays; until then the block is busy. `DR`, `RSR`, `BL`, the
parameters and every other bus address keep their values. The environment's primitives return (R198, log 3). -/
def Obligations.AcceptedOperationRunsItsPlan : Prop :=
  ∀ (op : Op) (s : State), s.seq = .run op ⟨0, op.len_pos⟩ → s.env.hangAfter = none →
    (∀ m, m < (outcome s (opPlan s op)).1.length → ∃ u, runSteps m s = .next u ∧ u.busy = true) ∧
    ∃ t, runSteps (outcome s (opPlan s op)).1.length s = .next t ∧
      Emits s t ((outcome s (opPlan s op)).1 ++ ([.resp (outcome s (opPlan s op)).2] : List Event)) ∧
      t.seq = .idle ∧ t.dr = s.dr ∧ t.rsr = s.rsr ∧ t.bl = s.bl ∧ t.params = s.params ∧
      t.inited = initedAfter op (outcome s (opPlan s op)).2 s.inited ∧
      t.port = portAfterEvents s.port (outcome s (opPlan s op)).1 ∧
      t.display = (if op = .init ∧ (outcome s (opPlan s op)).2 = .ok
        then (displayAfter s.port s.display (outcome s (opPlan s op)).1).endInit
        else displayAfter s.port s.display (outcome s (opPlan s op)).1) ∧
      t.client = s.client.onResponse (outcome s (opPlan s op)).2 ∧
      ∀ a, a ≠ s.addr → t.portAt a = s.portAt a

/-- R113: `WRCMD b` from the request port to its response: the encoding, the refusal, the six bus writes with bit 0 clear or
fewer when one fails, what is written and what is not, and the rule's example. What every run adds to the latch trace follows
R36 and U6 (nothing is known from a failed write on), beside R35: the model's reading (log 9); R113 gives the example's. -/
def Obligations.WrcmdFromPortToResponse : Prop :=
  (∀ (b : Byte) (rest : List ClientItem) (s : State),
    encode (.wrcmd b) = 0x000#10 ||| b.setWidth 10 ∧
    (s.seq = .idle → s.client.items = .request (encode (.wrcmd b)) :: rest → s.env.hangAfter = none →
      (s.inited = false →
        step s = .next { s with
          trace := s.trace ++ ([.req (encode (.wrcmd b)), .resp .uninit] : List Event)
          client := (s.client.take rest).onResponse .uninit }) ∧
      (s.inited = true →
        ∃ t, runSteps (1 + (outcome s (xferPlan b 0 s.bl)).1.length) s = .next t ∧
          Emits s t (.req (encode (.wrcmd b)) :: (outcome s (xferPlan b 0 s.bl)).1
            ++ ([.resp (outcome s (xferPlan b 0 s.bl)).2] : List Event)) ∧
          t.seq = .idle ∧ t.dr = b ∧ t.rsr = 0 ∧ t.bl = s.bl ∧ t.params = s.params ∧
          (t.inited = true ↔ (outcome s (xferPlan b 0 s.bl)).2 = .ok) ∧
          t.port = portAfterEvents s.port (outcome s (xferPlan b 0 s.bl)).1 ∧
          ((∀ held, s.display.phase ≠ .initialising held) →
            t.display.latches =
              s.display.latches ++ latchesOf s.display.lost s.port (outcome s (xferPlan b 0 s.bl)).1) ∧
          ∀ a, a ≠ s.addr → t.portAt a = s.portAt a))) ∧
  xferTrace 0x80 0 1 = [0x88, 0x8C, 0x88, 0x08, 0x0C, 0x08] ∧
  ∀ (a : BusAddr) (p : Byte), enablePin p = false →
    latchesOf false (some p) (okWrites a (xferTrace 0x80 0 1)) = [.pair 0 0x8, .pair 0 0x0]

/-- R114: `WRDATA b` from the request port to its response, as for R113 with bit 0 set in every word, and the rule's
examples. What every run adds to the latch trace follows R36 and U6 (nothing is known from a failed write on), beside R35: the
model's reading (log 9); R114 gives the examples'. -/
def Obligations.WrdataFromPortToResponse : Prop :=
  (∀ (b : Byte) (rest : List ClientItem) (s : State),
    encode (.wrdata b) = 0x100#10 ||| b.setWidth 10 ∧
    (∀ k : Bit, xferTrace b 1 k = (xferTrace b 0 k).map (· ||| 0x01)) ∧
    (s.seq = .idle → s.client.items = .request (encode (.wrdata b)) :: rest → s.env.hangAfter = none →
      (s.inited = false →
        step s = .next { s with
          trace := s.trace ++ ([.req (encode (.wrdata b)), .resp .uninit] : List Event)
          client := (s.client.take rest).onResponse .uninit }) ∧
      (s.inited = true →
        ∃ t, runSteps (1 + (outcome s (xferPlan b 1 s.bl)).1.length) s = .next t ∧
          Emits s t (.req (encode (.wrdata b)) :: (outcome s (xferPlan b 1 s.bl)).1
            ++ ([.resp (outcome s (xferPlan b 1 s.bl)).2] : List Event)) ∧
          t.seq = .idle ∧ t.dr = b ∧ t.rsr = 1 ∧ t.bl = s.bl ∧ t.params = s.params ∧
          (t.inited = true ↔ (outcome s (xferPlan b 1 s.bl)).2 = .ok) ∧
          t.port = portAfterEvents s.port (outcome s (xferPlan b 1 s.bl)).1 ∧
          ((∀ held, s.display.phase ≠ .initialising held) →
            t.display.latches =
              s.display.latches ++ latchesOf s.display.lost s.port (outcome s (xferPlan b 1 s.bl)).1) ∧
          ∀ a, a ≠ s.addr → t.portAt a = s.portAt a))) ∧
  xferTrace 0x41 1 1 = [0x49, 0x4D, 0x49, 0x19, 0x1D, 0x19] ∧
  xferTrace 0x41 1 0 = [0x41, 0x45, 0x41, 0x11, 0x15, 0x11] ∧
  ∀ (a : BusAddr) (p : Byte), enablePin p = false →
    latchesOf false (some p) (okWrites a (xferTrace 0x41 1 1)) = [.pair 1 0x4, .pair 1 0x1]

/-- R131 (decision D5 on the lone nibbles): `INIT` from the request port to its response: accepted in either operating state,
twelve bus writes and the two delays in their places or fewer when a write fails, `INITED` set only by its completion, and
the rule's examples. -/
def Obligations.InitFromPortToResponse : Prop :=
  encode .init = 0x200#10 ∧
  (∀ (rest : List ClientItem) (s : State),
    s.seq = .idle → s.client.items = .request (encode .init) :: rest → s.env.hangAfter = none →
      ∃ t, runSteps (1 + (outcome s (initPlan s.bl s.params.tInit1Ms s.params.tInit2Ms)).1.length) s = .next t ∧
        Emits s t (.req (encode .init) :: (outcome s (initPlan s.bl s.params.tInit1Ms s.params.tInit2Ms)).1
          ++ ([.resp (outcome s (initPlan s.bl s.params.tInit1Ms s.params.tInit2Ms)).2] : List Event)) ∧
        (t.inited = true ↔ (outcome s (initPlan s.bl s.params.tInit1Ms s.params.tInit2Ms)).2 = .ok) ∧
        t.seq = .idle ∧ t.dr = s.dr ∧ t.rsr = s.rsr ∧ t.bl = s.bl ∧ t.params = s.params ∧
        t.port = portAfterEvents s.port (outcome s (initPlan s.bl s.params.tInit1Ms s.params.tInit2Ms)).1 ∧
        ∀ a, a ≠ s.addr → t.portAt a = s.portAt a) ∧
  initPlan 1 5 1 =
    [.write 0x38, .write 0x3C, .write 0x38, .wait 5, .write 0x38, .write 0x3C, .write 0x38, .wait 1,
     .write 0x38, .write 0x3C, .write 0x38, .write 0x28, .write 0x2C, .write 0x28] ∧
  initPlan 0 5 1 =
    [.write 0x30, .write 0x34, .write 0x30, .wait 5, .write 0x30, .write 0x34, .write 0x30, .wait 1,
     .write 0x30, .write 0x34, .write 0x30, .write 0x20, .write 0x24, .write 0x20]

/-- R145 (decisions D7, D18): `SETBL v` from the request port to its response: accepted in either operating state, one bus
write of `v << 3`; if it fails under `propagate`, `BL` keeps `v` and `INITED` is cleared; it latches nothing when Enable was
low before it. -/
def Obligations.SetblFromPortToResponse : Prop :=
  (∀ (v : Bit) (rest : List ClientItem) (s : State),
    encode (.setbl v) = 0x300#10 ||| v.setWidth 10 ∧
    (s.seq = .idle → s.client.items = .request (encode (.setbl v)) :: rest → s.env.hangAfter = none →
      ∃ t, runSteps 2 s = .next t ∧ t.bl = v ∧ t.seq = .idle ∧ t.dr = s.dr ∧ t.rsr = s.rsr ∧ t.params = s.params ∧
        (s.answer 0 = .fail → s.params.policy = .propagate →
          Emits s t [.req (encode (.setbl v)), .bus s.addr (v.setWidth 8 <<< 3) .fail, .resp .busFail] ∧
          t.inited = false ∧ t.port = none) ∧
        (s.answer 0 = .fail → s.params.policy = .ignore →
          Emits s t [.req (encode (.setbl v)), .bus s.addr (v.setWidth 8 <<< 3) .fail, .resp .ok] ∧
          t.inited = s.inited ∧ t.port = none) ∧
        (s.answer 0 = .ok →
          Emits s t [.req (encode (.setbl v)), .bus s.addr (v.setWidth 8 <<< 3) .ok, .resp .ok] ∧
          t.inited = s.inited ∧ t.port = some (v.setWidth 8 <<< 3)) ∧
        (∀ p, s.port = some p → enablePin p = false → (∀ held, s.display.phase ≠ .initialising held) →
          t.display.latches = s.display.latches) ∧
        ∀ a, a ≠ s.addr → t.portAt a = s.portAt a)) ∧
  setblPlan 0 = [.write 0x00] ∧ setblPlan 1 = [.write 0x08]

/-- R112: the six words of a transfer whose writes succeed, in order, then `OK`; the block is idle again, `INITED` and `BL`
unchanged, and the port holds the sixth word. -/
def Obligations.TransferWritesItsSixWords : Prop :=
  ∀ s : State, s.seq = .run .xfer ⟨0, Op.len_pos .xfer⟩ → s.env.hangAfter = none →
    (∀ k, k < 6 → s.answer k = .ok) →
    ∃ t, runSteps 6 s = .next t ∧
      Emits s t
        [.bus s.addr ((s.dr &&& 0xF0) ||| (s.bl.setWidth 8 <<< 3) ||| s.rsr.setWidth 8) .ok,
         .bus s.addr ((s.dr &&& 0xF0) ||| (s.bl.setWidth 8 <<< 3) ||| s.rsr.setWidth 8 ||| 0x04) .ok,
         .bus s.addr ((s.dr &&& 0xF0) ||| (s.bl.setWidth 8 <<< 3) ||| s.rsr.setWidth 8) .ok,
         .bus s.addr (((s.dr <<< 4) &&& 0xF0) ||| (s.bl.setWidth 8 <<< 3) ||| s.rsr.setWidth 8) .ok,
         .bus s.addr (((s.dr <<< 4) &&& 0xF0) ||| (s.bl.setWidth 8 <<< 3) ||| s.rsr.setWidth 8 ||| 0x04) .ok,
         .bus s.addr (((s.dr <<< 4) &&& 0xF0) ||| (s.bl.setWidth 8 <<< 3) ||| s.rsr.setWidth 8) .ok,
         .resp .ok] ∧
      t.seq = .idle ∧ t.inited = s.inited ∧ t.bl = s.bl ∧
      t.port = some (((s.dr <<< 4) &&& 0xF0) ||| (s.bl.setWidth 8 <<< 3) ||| s.rsr.setWidth 8)

/-! ## Failures, policies, hangs -/

/-- R184 (decisions D10, D26): the entry on a failed bus write under `propagate`, at every write of every operation. -/
def Obligations.FailedWriteEndsTheOperation : Prop :=
  ∀ (op : Op) (i : Fin op.len) (n : NibbleSource) (m : ModeSource) (en : Bit) (s : State),
    s.seq = .run op i → microStep op i = .write n m en → s.hung = false →
    s.answer 0 = .fail → s.params.policy = .propagate →
    ∃ t, step s = .next t ∧ t.port = none ∧ t.inited = false ∧ t.seq = .idle ∧
      Emits s t [.bus s.addr (writeWord n m en s) .fail, .resp .busFail] ∧
      t.bl = s.bl ∧ t.params = s.params ∧ t.dr = s.dr ∧ t.rsr = s.rsr ∧
      ∀ a, a ≠ s.addr → t.portAt a = s.portAt a

/-- R186 (decision D10): under `ignore` every micro-step of an operation is performed in its place, a write with its own word
to `ADDR`, a delay with its own length, whatever the results are; `INITED` is
never cleared by a failure, `INIT` sets it at its end, the response is `OK`, and `PORT` follows every write. The acceptance
of a request word does not depend on the policy. -/
def Obligations.IgnorePerformsEveryMicroStep : Prop :=
  (∀ (op : Op) (s : State), s.seq = .run op ⟨0, op.len_pos⟩ → s.env.hangAfter = none → s.params.policy = .ignore →
    ∃ t, runSteps op.len s = .next t ∧
      Emits s t ((outcome s (opPlan s op)).1 ++ ([.resp .ok] : List Event)) ∧
      (outcome s (opPlan s op)).1.length = op.len ∧
      (∀ i : Fin op.len,
        (∀ n m en, microStep op i = .write n m en →
          ∃ k, (outcome s (opPlan s op)).1[i.val]? = some (.bus s.addr (writeWord n m en s) (s.answer k))) ∧
        (∀ d, microStep op i = .delay d → (outcome s (opPlan s op)).1[i.val]? = some (.wait (d.value s)))) ∧
      t.seq = .idle ∧ t.inited = (s.inited || decide (op = .init)) ∧
      t.port = portAfterEvents s.port (outcome s (opPlan s op)).1) ∧
  (∀ (q : RequestWord) (rest : List ClientItem) (s t : State) (pol : BusErrPolicy), accept q rest s = .next t →
    accept q rest { s with params := { s.params with policy := pol } } =
      .next { t with params := { t.params with policy := pol } })

/-- R27 (decisions D9, D10): `INITED` is set only by the last micro-step of `INIT` and cleared only by the acceptance of
`INIT` or by a failed bus write under `propagate`. So after `BUS_FAIL` the only way back to `READY` is a completed `INIT`
(R188). -/
def Obligations.InitedChangesOnlyAsItsRuleSays : Prop :=
  ∀ s t : State, step s = .next t → t.inited ≠ s.inited →
    (t.inited = true ∧ s.seq = .run .init ⟨13, by decide⟩ ∧ t.seq = .idle ∧
      ∃ w r, Emits s t [.bus s.addr w r, .resp .ok]) ∨
    (t.inited = false ∧ s.seq = .idle ∧ t.seq = .run .init ⟨0, by decide⟩ ∧ Emits s t [.req 0x200]) ∨
    (t.inited = false ∧ s.params.policy = .propagate ∧ t.seq = .idle ∧
      ∃ w, Emits s t [.bus s.addr w .fail, .resp .busFail])

/-- R198, R51 (decision D13): a primitive that never returns keeps the block in its `RUN` state for ever: no response, no
further request. -/
def Obligations.HungBlockStaysForEver : Prop :=
  ∀ s : State, s.busy = true → s.env.hangAfter = some 0 → ∀ n, runSteps n s = .next s

/-! ## What a step can and cannot change -/

/-- R34 (decisions D11, D26): no known value after reset; a successful write sets all eight bits, a failed one leaves no known
value; nothing else changes `PORT`, and no step changes what another bus address holds. -/
def Obligations.PortFollowsTheBusWrites : Prop :=
  (∀ (p : Params) (c : ClientParams), (State.construct p c).port = none) ∧
  ∀ s t : State, step s = .next t →
    (∀ a, a ≠ s.addr → t.portAt a = s.portAt a) ∧
    ((t.port = s.port ∧ ∃ es, Emits s t es ∧ ∀ a w r, .bus a w r ∉ es) ∨
     (∃ w es, Emits s t (.bus s.addr w .ok :: es) ∧ t.port = some w) ∨
     (∃ w es, Emits s t (.bus s.addr w .fail :: es) ∧ t.port = none))

/-- R26 (decision D8): `BL` is written only by the acceptance of a `SETBL`. -/
def Obligations.BacklightChangesOnlyBySetbl : Prop :=
  ∀ s t : State, step s = .next t → t.bl ≠ s.bl →
    s.seq = .idle ∧ ∃ rest, s.client.items = .request (encode (.setbl t.bl)) :: rest ∧
      Emits s t [.req (encode (.setbl t.bl))] ∧ t.busy = true

/-- R28, R30 (decision D19): `ADDR`, any of 128 values, is set at construction; no step changes it or a parameter, and every
bus write goes to `ADDR`. -/
def Obligations.ParametersNeverChange : Prop :=
  (∀ (a : BusAddr) (p : Params) (c : ClientParams), (State.construct { p with addr := a } c).addr = a) ∧
  ∀ s t : State, step s = .next t →
    t.params = s.params ∧ t.addr = s.addr ∧
    ∀ a w r, Event.bus a w r ∈ t.trace → Event.bus a w r ∈ s.trace ∨ a = s.addr

/-- R29, R63 (decision D14): while the block is busy, no step depends on what the client offers. -/
def Obligations.BusyBlockIgnoresTheClient : Prop :=
  ∀ (s t : State) (k : Client), s.busy = true → step s = .next t →
    ∃ u, step { s with client := k } = .next u ∧ { u with client := t.client } = t

/-- R21, R22, R39, and U8 of 93_implementation_defined.md: `DR` and `RSR` are not read before they are written. From any state
that is not in the middle of a transfer, a run with other values in them does the same in every respect that anything
outside can see, and leaves every other item of state the same. So the model's reset values (log 5) decide nothing. -/
def Obligations.LatchesAreNotReadBeforeWritten : Prop :=
  ∀ (s : State) (d : Byte) (m : Bit) (n : Nat), (∀ i, s.seq ≠ .run .xfer i) →
    ∃ t u, runSteps n s = .next t ∧ runSteps n { s with dr := d, rsr := m } = .next u ∧
      { u with dr := t.dr, rsr := t.rsr } = t

/-- R52, R34: the block has no load. A run does not depend on what the pins hold nor on anything in the display: with other
contents of the bus address space and another display, it emits the same trace, leaves the same registers, and the client sees
the same codes. -/
def Obligations.BlockNeverReadsTheBus : Prop :=
  ∀ (s : State) (m : Memory) (d : Display) (n : Nat),
    ∃ t u, runSteps n s = .next t ∧ runSteps n { s with mem := m, display := d } = .next u ∧
      { u with mem := t.mem, display := t.display } = t

/-- R25, R50, R55: a step appends to the trace one line of the step relation, at most one bus write, in the order request,
bus write or wait, response; only an idle block accepts a request. -/
def Obligations.StepAppendsOneLine : Prop :=
  ∀ s t : State, step s = .next t →
    t.trace = s.trace ∨
    (∃ ms, Emits s t [.wait ms]) ∨
    (∃ q, s.busy = false ∧ t.busy = true ∧ Emits s t [.req q]) ∨
    (∃ q, s.busy = false ∧ t.busy = false ∧
      (Emits s t [.req q, .resp .uninit] ∨ Emits s t [.req q, .resp .illegalReq])) ∨
    (∃ w r, s.busy = true ∧ t.busy = true ∧ Emits s t [.bus s.addr w r]) ∨
    (∃ w r, s.busy = true ∧ t.busy = false ∧
      (Emits s t [.bus s.addr w r, .resp .ok] ∨
       Emits s t [.bus s.addr w r, .resp .busFail]))

/-- R24, R25: the frame of a micro-step. It leaves `DR`, `RSR`, `BL`, the parameters and every bus address other than `ADDR`
as they are, a delay leaves every bus address as it is, and the client sees nothing but a response. -/
def Obligations.MicroStepFrame : Prop :=
  ∀ (op : Op) (i : Fin op.len) (s t : State), s.seq = .run op i → step s = .next t →
    t.dr = s.dr ∧ t.rsr = s.rsr ∧ t.bl = s.bl ∧ t.params = s.params ∧
    (∀ a, a ≠ s.addr → t.portAt a = s.portAt a) ∧
    (∀ d, microStep op i = .delay d → t.inited = s.inited ∧ t.display = s.display ∧ ∀ a, t.portAt a = s.portAt a) ∧
    (t.busy = true → t.client = s.client ∧ t.inited = s.inited) ∧
    (t.client = s.client ∨ t.client = s.client.onResponse .busFail)

/-! ## Invariants -/

/-- The three invariants hold right after construction, for all parameters within the bounds of R7. -/
def Obligations.InvariantsHoldAfterConstruction : Prop :=
  ∀ (p : Params) (c : ClientParams), p.wf = true →
    BusInv (State.construct p c) ∧ FollowsTrace (State.construct p c) ∧ Paired (State.construct p c)

/-- R40 (a), (b), (d), (f), R225: every step keeps the bus invariant: canonical memory, legal parameters, every write to `ADDR`
with bit 1 clear, Enable low between operations and high exactly after a raise, the backlight pin equal to `BL`; and of the
display as the model tracks it (log 9) that it is in an initialisation only while an `INIT` runs, and that its phase is not
known while its latch trace is lost. -/
def Obligations.StepKeepsTheBusInvariant : Prop :=
  ∀ s t : State, BusInv s → step s = .next t → BusInv t

/-- R27, R40 (e), R192: every step keeps `INITED` equal to what the trace says, and the sequencer on the request not yet
answered. -/
def Obligations.StepKeepsInitedReadFromTheTrace : Prop :=
  ∀ s t : State, FollowsTrace s → step s = .next t → FollowsTrace t

/-- R36, R58: under `propagate` every step keeps nibbles in pairs: in state `READY` the display is in 4-bit mode and expects
the half of the byte that the sequencer sends next. How the phase is tracked is the model's (log 9). -/
def Obligations.StepKeepsNibblesPaired : Prop :=
  ∀ s t : State, Paired s → step s = .next t → Paired t

/-- R36, R111: a transfer whose six writes succeed, to a display that is known to expect a high half, makes it latch the two
nibbles and receive exactly the byte in `DR` with the mode in `RSR`, and expect a high half again. How the phase is tracked is
the model's (log 9); that it is not known while the latch trace is lost is a clause of the bus invariant. -/
def Obligations.CompletedTransferDeliversItsByte : Prop :=
  ∀ (s : State) (p : Byte), s.seq = .run .xfer ⟨0, Op.len_pos .xfer⟩ → s.env.hangAfter = none →
    (∀ k, k < 6 → s.answer k = .ok) → s.port = some p → enablePin p = false → s.display.phase = .high →
    s.display.lost = false →
    ∃ t, runSteps 6 s = .next t ∧ t.display.phase = .high ∧
      t.display.latches = s.display.latches ++
        ([.pair s.rsr (s.dr.extractLsb' 4 4), .pair s.rsr (s.dr.extractLsb' 0 4)] : List LatchEvent) ∧
      t.display.received = s.display.received ++ [(s.rsr, s.dr)]

/-- R133: an `INIT` whose twelve writes succeed, accepted with Enable known to be low, latches `0x3, 0x3, 0x3, 0x2`, whatever
the display's phase was and whether or not its latch trace was lost (U6, R211), and leaves the block `READY` and the display
expecting a high half. How phase and latch trace are tracked is the model's (log 9). -/
def Obligations.CompletedInitOpensFourBitMode : Prop :=
  ∀ (s : State) (p : Byte) (rest : List ClientItem), s.seq = .idle → s.client.items = .request (encode .init) :: rest →
    s.env.hangAfter = none → (∀ k, k < 12 → s.answer k = .ok) → s.port = some p → enablePin p = false →
    ∃ t, runSteps 15 s = .next t ∧ t.inited = true ∧ t.display.phase = .high ∧ t.display.lost = false ∧
      t.display.latches = s.display.latches ++ ([.pair 0 0x3, .pair 0 0x3, .pair 0 0x3, .pair 0 0x2] : List LatchEvent) ∧
      t.port = some (0x20#8 ||| (s.bl.setWidth 8 <<< 3))

/-- U6 of 93_implementation_defined.md, R36, R58: a failed bus write makes the latch trace and the phase unknown; while the
trace is lost a step adds to it only latches of which nothing is known; it is found again only by the completion of an `INIT`
that no failed write has ended. That the model keeps this in `Display.lost` and in the phase is its own (log 9). -/
def Obligations.FailedWriteMakesTheLatchTraceUnknown : Prop :=
  ∀ s t : State, step s = .next t →
    (∀ w es, Emits s t (.bus s.addr w .fail :: es) → t.display.lost = true ∧ t.display.phase = .unknown) ∧
    (s.display.lost = false → t.display.lost = true → ∃ w es, Emits s t (.bus s.addr w .fail :: es)) ∧
    (s.display.lost = true → t.display.lost = true →
      ∃ es, t.display.latches = s.display.latches ++ es ∧ ∀ e ∈ es, e = .uncertain) ∧
    (s.display.lost = true → t.display.lost = false →
      s.seq = .run .init ⟨13, by decide⟩ ∧ t.inited = true ∧ (∃ held, s.display.phase = .initialising held) ∧
      ∃ w, Emits s t [.bus s.addr w .ok, .resp .ok]) ∧
    (∀ held, t.display.phase = .initialising held →
      (s.seq = .idle ∧ t.seq = .run .init ⟨0, by decide⟩) ∨ ∃ held', s.display.phase = .initialising held')

/-! ## The client's macros -/

/-- R158: `INITIALIZE` is `INIT`, the function-set, display-control, clear (with its wait) and entry-mode commands, in that
order; the three bytes are the client's parameters, and it reads nothing else. -/
def Obligations.InitializeExpandsInOrder : Prop :=
  ∀ p : ClientParams,
    ClientCall.bringUp.expand p =
      [.request 0x200, .request (encode (.wrcmd p.fsByte)), .request (encode (.wrcmd p.dcByte)), .request 0x001, .wait 2,
       .request (encode (.wrcmd p.emByte))]

/-- R158, R159, R166: within `INITIALIZE` the stored cursor becomes `(0, 0)` through its `CLEAR`, the fourth of its five
requests, and not before: one whose `INIT` fails returns `BUS_FAIL`, issues nothing more and leaves the stored cursor as it was.
That a request moves the cursor as it is accepted is the model's choice (log 10). The primitives return (log 3). -/
def Obligations.InitializeMovesTheCursorByItsClear : Prop :=
  (∀ (k : Client) (a b c d e : List ClientItem),
    ((k.begin .bringUp).take a).cursor = k.cursor ∧
    (((k.begin .bringUp).take a).take b).cursor = k.cursor ∧
    ((((k.begin .bringUp).take a).take b).take c).cursor = k.cursor ∧
    (((((k.begin .bringUp).take a).take b).take c).take d).cursor = { row := 0, column := 0 } ∧
    ((((((k.begin .bringUp).take a).take b).take c).take d).take e).cursor = { row := 0, column := 0 }) ∧
  ∀ (s : State) (rest : List ClientCall), s.seq = .idle → s.client.items = [] → s.client.running = false →
    s.client.calls = .bringUp :: rest → s.env.hangAfter = none →
    (outcome s (initPlan s.bl s.params.tInit1Ms s.params.tInit2Ms)).2 = .busFail →
    ∃ t, runSteps (3 + (outcome s (initPlan s.bl s.params.tInit1Ms s.params.tInit2Ms)).1.length) s = .next t ∧
      t.client.cursor = s.client.cursor ∧ t.client.items = [] ∧ t.client.calls = rest ∧
      t.client.returns = s.client.returns ++ [.busFail] ∧
      Emits s t (.req 0x200 :: (outcome s (initPlan s.bl s.params.tInit1Ms s.params.tInit2Ms)).1
        ++ ([.resp .busFail] : List Event))

/-- R164: `PUTSTRING` is `PUTCHAR` for each character, first to last; the empty string sends nothing; the rule's example and
its twelve bytes. -/
def Obligations.PutStringSendsItsCharactersInOrder : Prop :=
  (∀ (cs : List Nat) (p : ClientParams),
    (ClientCall.putString cs).expand p = cs.flatMap (fun ch => (ClientCall.putChar ch).expand p)) ∧
  (∀ p : ClientParams, (ClientCall.putString []).expand p = [] ∧
    (ClientCall.putString [0x41, 0x42]).expand p =
      [.request (encode (.wrdata 0x41)), .request (encode (.wrdata 0x42))]) ∧
  xferTrace 0x41 1 1 ++ xferTrace 0x42 1 1 =
    [0x49, 0x4D, 0x49, 0x19, 0x1D, 0x19, 0x49, 0x4D, 0x49, 0x29, 0x2D, 0x29]

/-- R163 (decision D20): `PUTCHAR` sends one data byte, the code point modulo 256, and nothing else; the rule's examples. How
the stored cursor advances is a free value (log 10) and is not stated. -/
def Obligations.PutCharSendsTheCodePointModulo256 : Prop :=
  (∀ (ch : Nat) (p : ClientParams), ∃ b : Byte, b.toNat = ch % 256 ∧
    (ClientCall.putChar ch).expand p = [.request (encode (.wrdata b))]) ∧
  ∀ p : ClientParams, (ClientCall.putChar 0x41).expand p = [.request (encode (.wrdata 0x41))] ∧
    (ClientCall.putChar 0x20AC).expand p = [.request (encode (.wrdata 0xAC))]

/-- R161, R162 (decision D20 for negative arguments): `MOVECURSOR r, c` sends one command byte, `0x80` plus the address, and
waits for nothing; the address is the column modulo 64 plus `0x40` for an odd row, always in `[0, 0x7F]`; the stored cursor
becomes `(r, c)`, and when it does is the model's choice: as its request is accepted, whatever the response (log 10); the
rule's example. -/
def Obligations.MoveCursorSendsItsAddress : Prop :=
  (∀ (r c : Int) (p : ClientParams), ∃ b : Byte,
    (ClientCall.moveCursor r c).expand p = [.request (encode (.wrcmd b))] ∧
    b.toNat = 0x80 + ddramAddress r c ∧ ddramAddress r c ≤ 0x7F ∧
    (ddramAddress r c : Int) = c % 64 + (if r % 2 = 1 then 0x40 else 0)) ∧
  (∀ (r c : Int) (k : Client) (rest : List ClientItem),
    ((k.begin (.moveCursor r c)).take rest).cursor = { row := r, column := c }) ∧
  (∀ p : ClientParams, (ClientCall.moveCursor 1 5).expand p = [.request (encode (.wrcmd 0xC5))]) ∧
  xferTrace 0xC5 0 1 = [0xC8, 0xCC, 0xC8, 0x58, 0x5C, 0x58]

/-- S3 of 95_test_vectors.md, from R161: the 128 positions of rows 0 and 1 and columns 0 to 63 have distinct addresses, and
those cover `[0, 0x7F]`. -/
def Obligations.CursorAddressesAreABijection : Prop :=
  (∀ r c r' c' : Int, 0 ≤ r → r ≤ 1 → 0 ≤ c → c ≤ 63 → 0 ≤ r' → r' ≤ 1 → 0 ≤ c' → c' ≤ 63 →
    ddramAddress r c = ddramAddress r' c' → r = r' ∧ c = c') ∧
  (∀ a : Nat, a ≤ 0x7F → ∃ r c : Int, 0 ≤ r ∧ r ≤ 1 ∧ 0 ≤ c ∧ c ≤ 63 ∧ ddramAddress r c = a)

/-- R159, R160, and R166 on the response: `CLEAR` and `HOME` are one command byte and then a wait of 2 ms, whatever the
response was; the stored cursor becomes `(0, 0)`, and when it does is the model's choice: as the request is accepted (log 10); the rules' bus traces. -/
def Obligations.ClearAndHomeWaitUnconditionally : Prop :=
  (∀ p : ClientParams, ClientCall.clear.expand p = [.request (encode (.wrcmd 0x01)), .wait 2] ∧
    ClientCall.home.expand p = [.request (encode (.wrcmd 0x02)), .wait 2]) ∧
  (∀ (k : Client) (rest : List ClientItem), ((k.begin .clear).take rest).cursor = { row := 0, column := 0 } ∧
    ((k.begin .home).take rest).cursor = { row := 0, column := 0 }) ∧
  (∀ (cmd : Byte) (rest : List ClientItem) (s : State), (cmd = 0x01 ∨ cmd = 0x02) → s.seq = .idle →
    s.client.items = .request (encode (.wrcmd cmd)) :: .wait 2 :: rest → s.env.hangAfter = none →
    (s.inited = false → ∃ t, runSteps 2 s = .next t ∧
      Emits s t [.req (encode (.wrcmd cmd)), .resp .uninit, .wait 2]) ∧
    (s.inited = true → ∃ t, runSteps (1 + (outcome s (xferPlan cmd 0 s.bl)).1.length + 1) s = .next t ∧
      Emits s t (.req (encode (.wrcmd cmd)) :: (outcome s (xferPlan cmd 0 s.bl)).1
        ++ ([.resp (outcome s (xferPlan cmd 0 s.bl)).2, .wait 2] : List Event)))) ∧
  xferTrace 0x01 0 1 = [0x08, 0x0C, 0x08, 0x18, 0x1C, 0x18] ∧
  xferTrace 0x02 0 1 = [0x08, 0x0C, 0x08, 0x28, 0x2C, 0x28]

/-- R166 (decision D10): after a code other than `OK` a call issues no further request, keeps only the waits that stand right
there, moves the stored cursor no further, and will return the first such code; after `OK` it goes on. That the calls after it stay in place is the model's choice
(log 10): R166 ends the macro and says nothing of what its caller does next. -/
def Obligations.FailedRequestEndsItsMacro : Prop :=
  ∀ (k : Client) (c : Response),
    (c ≠ .ok → (∀ q, ClientItem.request q ∉ (k.onResponse c).items) ∧ (k.onResponse c).items <+: k.items ∧
      (k.onResponse c).code = (if k.code = .ok then c else k.code) ∧ (k.onResponse c).calls = k.calls ∧
      (k.onResponse c).cursor = k.cursor ∧ (k.onResponse c).moves = []) ∧
    (c = .ok → k.onResponse c = k)

/-- R157: a client whose rows or columns are not positive is refused at construction, every other one is constructed, and the
block is then in its reset state. -/
def Obligations.BadGeometryIsRefused : Prop :=
  ∀ (p : Params) (c : ClientParams),
    (c.geometry.rows ≤ 0 ∨ c.geometry.columns ≤ 0 → constructClient p c = .inl .invalidGeometry) ∧
    (0 < c.geometry.rows → 0 < c.geometry.columns → constructClient p c = .inr (State.construct p c))

/-- R165: `MOVECURSOR 0, 0` then `PUTCHAR 'A'`, and `WRCMD 0x80` then `WRDATA 0x41` issued directly, are observably equivalent:
from any state of the block and for any results of the bus writes, after every number of steps the traces, the port and the
codes returned are the same. -/
def Obligations.RoundTripOfTheMacros : Prop :=
  ∀ (s : State) (n : Nat), ∃ t u : State,
    runSteps n { s with client := { s.client with
      items := [], running := false, calls := [.moveCursor 0 0, .putChar 0x41] } } = .next t ∧
    runSteps n { s with client := { s.client with
      items := [], running := false, calls := [.raw 0x080, .raw 0x141] } } = .next u ∧
    t.trace = u.trace ∧ t.port = u.port ∧ t.display = u.display ∧ t.client.returns = u.client.returns

/-- R216: a client that is constructed and calls only macros and waits, with initialisation bytes that are no clear or home
command, is a macro client. -/
def Obligations.MacroClientAtConstruction : Prop :=
  ∀ (p : Params) (c : ClientParams) (calls : List ClientCall), calls.all isMacro = true → bytesNoClear c = true →
    MacroClient { State.construct p c with client := { params := c, calls := calls } }

/-- R216, R159, R160, R166: every step of a macro client keeps the 2 ms rule: whatever the bus does, no byte goes out sooner
than 2 ms after the response to a clear or home command. -/
def Obligations.StepKeepsTheClearWait : Prop :=
  ∀ s t : State, MacroClient s → step s = .next t → MacroClient t
end

