-- ==== Sys2Proof/Laws/Client.lean ====
section
/-! SUPPORT. What the client's operations can do, said once (43_client_macros.md R155 to R166). -/

namespace Sys2Proof.Machine

namespace Client

variable (k : Client) (m : CursorMove) (rest : List ClientItem) (c : Response)

/-- A move changes the stored cursor and the counter of its free value, nothing else. -/
theorem move_eq : k.move m = { k with cursor := (k.move m).cursor, puts := (k.move m).puts } := by cases m <;> rfl

@[simp] theorem move_stay : k.move .stay = k := rfl
@[simp] theorem move_to_cursor (p : Cursor) : (k.move (.to p)).cursor = p := rfl

/-- Taking a request changes the items, the stored cursor with what is still to move it, and the counter, nothing else. -/
theorem take_eq : k.take rest =
    { k with
      items := rest
      moves := (k.take rest).moves
      cursor := (k.take rest).cursor
      puts := (k.take rest).puts } := by
  unfold take
  split
  · rfl
  · rw [move_eq]

theorem take_nil (h : k.moves = []) : k.take rest = { k with items := rest } := by unfold take; rw [h]
theorem take_cons {ms : List CursorMove} (h : k.moves = m :: ms) :
    k.take rest = { k.move m with items := rest, moves := ms } := by unfold take; rw [h]

@[simp] theorem take_items : (k.take rest).items = rest := by rw [take_eq]
@[simp] theorem take_params : (k.take rest).params = k.params := by rw [take_eq]
@[simp] theorem take_calls : (k.take rest).calls = k.calls := by rw [take_eq]
@[simp] theorem take_running : (k.take rest).running = k.running := by rw [take_eq]
@[simp] theorem take_code : (k.take rest).code = k.code := by rw [take_eq]
@[simp] theorem take_returns : (k.take rest).returns = k.returns := by rw [take_eq]

@[simp] theorem begin_items (call : ClientCall) : (k.begin call).items = call.expand k.params := rfl
@[simp] theorem begin_moves (call : ClientCall) : (k.begin call).moves = call.moves := rfl
@[simp] theorem begin_cursor (call : ClientCall) : (k.begin call).cursor = k.cursor := rfl

@[simp] theorem onResponse_ok : k.onResponse .ok = k := rfl
@[simp] theorem onResponse_cursor : (k.onResponse c).cursor = k.cursor := by cases c <;> rfl
@[simp] theorem onResponse_calls : (k.onResponse c).calls = k.calls := by cases c <;> rfl
@[simp] theorem onResponse_params : (k.onResponse c).params = k.params := by cases c <;> rfl

end Client

/-- Every request of a call has its own cursor move. -/
theorem ClientCall.moves_length (call : ClientCall) (p : ClientParams) :
    call.moves.length = ((call.expand p).filter (fun i => !i.isWait)).length := by
  cases call with
  | putString chs => induction chs <;> simp_all [moves, expand, expandPutString, expandPutChar, item, ClientItem.isWait]
  | _ => rfl

end Sys2Proof.Machine
end

