-- ==== Sys2Proof/Laws/Display.lean ====
section
/-! SUPPORT. What the display's operations can do, said once (10_state.md R35, R36; 70_reset_and_hazards.md R211;
93_implementation_defined.md U6). -/

namespace Sys2Proof.Machine

@[simp] theorem latchEntry_false (e : Option LatchEvent) : latchEntry false e = e := rfl
@[simp] theorem latchEntry_true (e : Option LatchEvent) : latchEntry true e = e.map LatchEvent.weaken := rfl
@[simp] theorem weaken_eq (e : LatchEvent) : e.weaken = .uncertain := by cases e <;> rfl

/-- Nothing definite is in an entry made while the trace is lost. -/
theorem latchEntry_lost {e : Option LatchEvent} {l : LatchEvent} (h : l ∈ (latchEntry true e).toList) : l = .uncertain := by
  cases e <;> simp_all

/-- A failed write latches nothing definite. -/
theorem latchOf_fail {before : Option Byte} {w : Byte} {l : LatchEvent}
    (h : l ∈ (latchOf before w .fail).toList) : l = .uncertain := by
  unfold latchOf at h
  split at h
  · simp at h
  · cases before with
    | none => simpa using h
    | some p => cases hp : enablePin p <;> simp_all

/-- Weakening the entry of a failed write changes nothing. -/
@[simp] theorem latchEntry_latchOf_fail (lost : Bool) (before : Option Byte) (w : Byte) :
    latchEntry lost (latchOf before w .fail) = latchOf before w .fail := by
  cases lost with
  | false => rfl
  | true =>
    unfold latchOf
    split
    · rfl
    · cases before with
      | none => rfl
      | some p => cases hp : enablePin p <;> simp [LatchEvent.weaken]

namespace Display

variable (d : Display) (before : Option Byte) (w : Byte) (r : BusResult) (e : Option LatchEvent)

@[simp] theorem take_latches : (d.take e).latches = d.latches := by
  cases e with
  | none => rfl
  | some e => cases e <;> simp only [take] <;> split <;> first | rfl | (split <;> rfl)

@[simp] theorem take_lost : (d.take e).lost = d.lost := by
  cases e with
  | none => rfl
  | some e => cases e <;> simp only [take] <;> split <;> first | rfl | (split <;> rfl)

@[simp] theorem take_none : d.take none = d := rfl

@[simp] theorem held_of_not_initialising {d : Display} (h : ∀ held, d.phase ≠ .initialising held) : d.held = [] := by
  unfold held
  split
  · next k hk => exact absurd hk (h k)
  · rfl

@[simp] theorem forget_phase : d.forget.phase = .unknown := rfl
@[simp] theorem forget_lost : d.forget.lost = d.lost := rfl
@[simp] theorem forget_received : d.forget.received = d.received := rfl
@[simp] theorem forget_latches : d.forget.latches = d.latches ++ d.held.map LatchEvent.weaken := rfl

@[simp] theorem lose_phase : d.lose.phase = .unknown := rfl
@[simp] theorem lose_lost : d.lose.lost = true := rfl
@[simp] theorem lose_received : d.lose.received = d.received := rfl
@[simp] theorem lose_latches : d.lose.latches = d.latches ++ d.held.map LatchEvent.weaken := rfl

@[simp] theorem beginInit_phase : d.beginInit.phase = .initialising [] := rfl
@[simp] theorem beginInit_lost : d.beginInit.lost = d.lost := rfl
@[simp] theorem beginInit_latches : d.beginInit.latches = d.latches := rfl
@[simp] theorem beginInit_received : d.beginInit.received = d.received := rfl

/-- A failed write: nothing is known from here on. -/
theorem observe_fail : d.observe before w .fail =
    { d.lose with latches := d.lose.latches ++ (latchOf before w .fail).toList } := rfl

/-- A successful write while an `INIT` is to make the lost trace known again: its latches are held back. -/
theorem observe_ok_held {held : List LatchEvent} (hp : d.phase = .initialising held) (hl : d.lost = true) :
    d.observe before w .ok = { d with phase := .initialising (held ++ (latchOf before w .ok).toList) } := by
  unfold observe
  simp only [hp, hl]

/-- Any other successful write: the entry is made and its nibble paired. -/
theorem observe_ok (h : d.lost = false ∨ ∀ held, d.phase ≠ .initialising held) :
    d.observe before w .ok =
      { d.take (latchEntry d.lost (latchOf before w .ok)) with
        latches := d.latches ++ (latchEntry d.lost (latchOf before w .ok)).toList } := by
  unfold observe
  simp only
  split
  · next hp hl =>
    rcases h with h | h
    · exact absurd (h.symm.trans hl) (by decide)
    · exact absurd hp (h _)
  · rfl

/-- An `INIT` none of whose writes failed completes. -/
theorem endInit_initialising {held : List LatchEvent} (h : d.phase = .initialising held) :
    d.endInit = { d with phase := .high, lost := false, latches := d.latches ++ held } := by
  unfold endInit
  rw [h]

/-- An `INIT` completes of which a write failed. -/
theorem endInit_other (h : ∀ held, d.phase ≠ .initialising held) : d.endInit = { d with phase := .unknown } := by
  unfold endInit
  split
  · next k hk => exact absurd hk (h k)
  · rfl

/-- Only a failed write loses the latch trace. -/
@[simp] theorem observe_ok_lost : (d.observe before w .ok).lost = d.lost := by
  unfold observe
  simp only
  split
  · rfl
  · simp

/-- A successful write neither begins nor ends an initialisation. -/
theorem observe_ok_initialising :
    (∃ k, (d.observe before w .ok).phase = .initialising k) ↔ ∃ k, d.phase = .initialising k := by
  have key : ∀ e, (∃ k, (d.take e).phase = .initialising k) ↔ ∃ k, d.phase = .initialising k := by
    intro e
    cases e with
    | none => rfl
    | some e =>
      cases h : d.phase <;> cases e <;> simp [take, h]
      split <;> simp
  unfold observe
  simp only
  split
  · next h _ => simp [h]
  · exact key _

/-- While the latch trace is lost a successful write adds nothing definite to it. -/
theorem observe_ok_lost_latches (h : d.lost = true) :
    ∃ es, (d.observe before w .ok).latches = d.latches ++ es ∧ ∀ e ∈ es, e = .uncertain := by
  by_cases hk : ∃ k, d.phase = .initialising k
  · obtain ⟨k, hk⟩ := hk
    rw [observe_ok_held _ _ _ hk h]
    exact ⟨[], by simp, by simp⟩
  · rw [observe_ok _ _ _ (.inr (fun k hk' => hk ⟨k, hk'⟩))]
    exact ⟨_, rfl, fun e he => latchEntry_lost (h ▸ he)⟩

end Display

end Sys2Proof.Machine
end

