-- ==== Sys2Proof/Laws/Encoding.lean ====
section
/-! SUPPORT. Lemmas about the fields of request words and expander words. -/

namespace Sys2Proof

@[simp] theorem op_append (o : BitVec 2) (b : Byte) : RequestWord.op (o ++ b) = o := by
  revert o b; decide

@[simp] theorem pl_append (o : BitVec 2) (b : Byte) : RequestWord.pl (o ++ b) = b := by
  revert o b; decide

@[simp] theorem op_append_pl (q : RequestWord) : RequestWord.op q ++ RequestWord.pl q = q := by
  revert q; decide

end Sys2Proof
end

