-- ==== Sys2Proof/Laws/State.lean ====
section
/-! SUPPORT. One lemma per field for each update of the state, so that no later proof unfolds a record update. -/

namespace Sys2Proof.Machine

section respond
variable (c : Response) (s : State)
@[simp] theorem respond_dr : (respond c s).dr = s.dr := rfl
@[simp] theorem respond_rsr : (respond c s).rsr = s.rsr := rfl
@[simp] theorem respond_seq : (respond c s).seq = .idle := rfl
@[simp] theorem respond_bl : (respond c s).bl = s.bl := rfl
@[simp] theorem respond_inited : (respond c s).inited = s.inited := rfl
@[simp] theorem respond_params : (respond c s).params = s.params := rfl
@[simp] theorem respond_mem : (respond c s).mem = s.mem := rfl
@[simp] theorem respond_display : (respond c s).display = s.display := rfl
@[simp] theorem respond_env : (respond c s).env = s.env := rfl
@[simp] theorem respond_trace : (respond c s).trace = s.trace ++ ([.resp c] : List Event) := rfl
@[simp] theorem respond_client : (respond c s).client = s.client.onResponse c := rfl
end respond

section raise
variable (f : Failure) (s : State)
@[simp] theorem raise_dr : (raise f s).dr = s.dr := by cases f <;> rfl
@[simp] theorem raise_rsr : (raise f s).rsr = s.rsr := by cases f <;> rfl
@[simp] theorem raise_seq : (raise f s).seq = .idle := rfl
@[simp] theorem raise_bl : (raise f s).bl = s.bl := by cases f <;> rfl
@[simp] theorem raise_busFail_inited : (raise .busFail s).inited = false := rfl
@[simp] theorem raise_uninit_inited : (raise .uninit s).inited = s.inited := rfl
@[simp] theorem raise_illegalReq_inited : (raise .illegalReq s).inited = s.inited := rfl
@[simp] theorem raise_params : (raise f s).params = s.params := by cases f <;> rfl
@[simp] theorem raise_mem : (raise f s).mem = s.mem := by cases f <;> rfl
@[simp] theorem raise_display : (raise f s).display = s.display := by cases f <;> rfl
@[simp] theorem raise_env : (raise f s).env = s.env := by cases f <;> rfl
@[simp] theorem raise_trace : (raise f s).trace = s.trace ++ ([.resp f.code] : List Event) := by cases f <;> rfl
@[simp] theorem raise_client : (raise f s).client = s.client.onResponse f.code := by cases f <;> rfl
end raise

section start
variable (op : Op) (s : State)
@[simp] theorem start_dr : (start op s).dr = s.dr := rfl
@[simp] theorem start_rsr : (start op s).rsr = s.rsr := rfl
@[simp] theorem start_seq : (start op s).seq = .run op ⟨0, op.len_pos⟩ := rfl
@[simp] theorem start_bl : (start op s).bl = s.bl := rfl
@[simp] theorem start_inited : (start op s).inited = s.inited := rfl
@[simp] theorem start_params : (start op s).params = s.params := rfl
@[simp] theorem start_mem : (start op s).mem = s.mem := rfl
@[simp] theorem start_display : (start op s).display = s.display := rfl
@[simp] theorem start_env : (start op s).env = s.env := rfl
@[simp] theorem start_trace : (start op s).trace = s.trace := rfl
@[simp] theorem start_client : (start op s).client = s.client := rfl
end start

section busWrite
variable (w : Byte) (r : BusResult) (s : State)
@[simp] theorem busWrite_dr : (busWrite w r s).dr = s.dr := rfl
@[simp] theorem busWrite_rsr : (busWrite w r s).rsr = s.rsr := rfl
@[simp] theorem busWrite_seq : (busWrite w r s).seq = s.seq := rfl
@[simp] theorem busWrite_bl : (busWrite w r s).bl = s.bl := rfl
@[simp] theorem busWrite_inited : (busWrite w r s).inited = s.inited := rfl
@[simp] theorem busWrite_params : (busWrite w r s).params = s.params := rfl
@[simp] theorem busWrite_mem : (busWrite w r s).mem = Memory.set s.mem s.addr.toNat (portAfter w r) := rfl
@[simp] theorem busWrite_display : (busWrite w r s).display = s.display.observe s.port w r := rfl
@[simp] theorem busWrite_env : (busWrite w r s).env = s.env.wrote := rfl
@[simp] theorem busWrite_trace : (busWrite w r s).trace = s.trace ++ ([.bus s.addr w r] : List Event) := rfl
@[simp] theorem busWrite_client : (busWrite w r s).client = s.client := rfl
end busWrite

section delay
variable (t : Nat) (s : State)
@[simp] theorem delay_dr : (delay t s).dr = s.dr := rfl
@[simp] theorem delay_rsr : (delay t s).rsr = s.rsr := rfl
@[simp] theorem delay_seq : (delay t s).seq = s.seq := rfl
@[simp] theorem delay_bl : (delay t s).bl = s.bl := rfl
@[simp] theorem delay_inited : (delay t s).inited = s.inited := rfl
@[simp] theorem delay_params : (delay t s).params = s.params := rfl
@[simp] theorem delay_mem : (delay t s).mem = s.mem := rfl
@[simp] theorem delay_display : (delay t s).display = s.display := rfl
@[simp] theorem delay_env : (delay t s).env = s.env.callReturned := rfl
@[simp] theorem delay_trace : (delay t s).trace = s.trace ++ ([.wait t] : List Event) := rfl
@[simp] theorem delay_client : (delay t s).client = s.client := rfl
end delay

section takeRequest
variable (q : RequestWord) (rest : List ClientItem) (s : State)
@[simp] theorem takeRequest_dr : (takeRequest q rest s).dr = s.dr := rfl
@[simp] theorem takeRequest_rsr : (takeRequest q rest s).rsr = s.rsr := rfl
@[simp] theorem takeRequest_seq : (takeRequest q rest s).seq = s.seq := rfl
@[simp] theorem takeRequest_bl : (takeRequest q rest s).bl = s.bl := rfl
@[simp] theorem takeRequest_inited : (takeRequest q rest s).inited = s.inited := rfl
@[simp] theorem takeRequest_params : (takeRequest q rest s).params = s.params := rfl
@[simp] theorem takeRequest_mem : (takeRequest q rest s).mem = s.mem := rfl
@[simp] theorem takeRequest_display : (takeRequest q rest s).display = s.display := rfl
@[simp] theorem takeRequest_env : (takeRequest q rest s).env = s.env := rfl
@[simp] theorem takeRequest_trace : (takeRequest q rest s).trace = s.trace ++ ([.req q] : List Event) := rfl
@[simp] theorem takeRequest_client : (takeRequest q rest s).client = s.client.take rest := rfl
end takeRequest

section inited
variable (s : State)
@[simp] theorem clearInited_inited : s.clearInited.inited = false := rfl
@[simp] theorem setInited_inited : s.setInited.inited = true := rfl
@[simp] theorem clearInited_dr : s.clearInited.dr = s.dr := rfl
@[simp] theorem setInited_dr : s.setInited.dr = s.dr := rfl
@[simp] theorem clearInited_rsr : s.clearInited.rsr = s.rsr := rfl
@[simp] theorem setInited_rsr : s.setInited.rsr = s.rsr := rfl
@[simp] theorem clearInited_seq : s.clearInited.seq = s.seq := rfl
@[simp] theorem setInited_seq : s.setInited.seq = s.seq := rfl
@[simp] theorem clearInited_bl : s.clearInited.bl = s.bl := rfl
@[simp] theorem setInited_bl : s.setInited.bl = s.bl := rfl
@[simp] theorem clearInited_params : s.clearInited.params = s.params := rfl
@[simp] theorem setInited_params : s.setInited.params = s.params := rfl
@[simp] theorem clearInited_mem : s.clearInited.mem = s.mem := rfl
@[simp] theorem setInited_mem : s.setInited.mem = s.mem := rfl
@[simp] theorem clearInited_display : s.clearInited.display = s.display := rfl
@[simp] theorem setInited_display : s.setInited.display = s.display := rfl
@[simp] theorem clearInited_env : s.clearInited.env = s.env := rfl
@[simp] theorem setInited_env : s.setInited.env = s.env := rfl
@[simp] theorem clearInited_trace : s.clearInited.trace = s.trace := rfl
@[simp] theorem setInited_trace : s.setInited.trace = s.trace := rfl
@[simp] theorem clearInited_client : s.clearInited.client = s.client := rfl
@[simp] theorem setInited_client : s.setInited.client = s.client := rfl
end inited

section latchByte
variable (b : Byte) (rs : Bit) (s : State)
@[simp] theorem latchByte_dr : (latchByte b rs s).dr = b := rfl
@[simp] theorem latchByte_rsr : (latchByte b rs s).rsr = rs := rfl
@[simp] theorem latchByte_seq : (latchByte b rs s).seq = s.seq := rfl
@[simp] theorem latchByte_bl : (latchByte b rs s).bl = s.bl := rfl
@[simp] theorem latchByte_inited : (latchByte b rs s).inited = s.inited := rfl
@[simp] theorem latchByte_params : (latchByte b rs s).params = s.params := rfl
@[simp] theorem latchByte_mem : (latchByte b rs s).mem = s.mem := rfl
@[simp] theorem latchByte_display : (latchByte b rs s).display = s.display := rfl
@[simp] theorem latchByte_env : (latchByte b rs s).env = s.env := rfl
@[simp] theorem latchByte_trace : (latchByte b rs s).trace = s.trace := rfl
@[simp] theorem latchByte_client : (latchByte b rs s).client = s.client := rfl
end latchByte

section setBacklight
variable (v : Bit) (s : State)
@[simp] theorem setBacklight_dr : (setBacklight v s).dr = s.dr := rfl
@[simp] theorem setBacklight_rsr : (setBacklight v s).rsr = s.rsr := rfl
@[simp] theorem setBacklight_seq : (setBacklight v s).seq = s.seq := rfl
@[simp] theorem setBacklight_bl : (setBacklight v s).bl = v := rfl
@[simp] theorem setBacklight_inited : (setBacklight v s).inited = s.inited := rfl
@[simp] theorem setBacklight_params : (setBacklight v s).params = s.params := rfl
@[simp] theorem setBacklight_mem : (setBacklight v s).mem = s.mem := rfl
@[simp] theorem setBacklight_display : (setBacklight v s).display = s.display := rfl
@[simp] theorem setBacklight_env : (setBacklight v s).env = s.env := rfl
@[simp] theorem setBacklight_trace : (setBacklight v s).trace = s.trace := rfl
@[simp] theorem setBacklight_client : (setBacklight v s).client = s.client := rfl
end setBacklight

section beginInit
variable (s : State)
@[simp] theorem beginInit_dr : (beginInit s).dr = s.dr := rfl
@[simp] theorem beginInit_rsr : (beginInit s).rsr = s.rsr := rfl
@[simp] theorem beginInit_seq : (beginInit s).seq = s.seq := rfl
@[simp] theorem beginInit_bl : (beginInit s).bl = s.bl := rfl
@[simp] theorem beginInit_inited : (beginInit s).inited = s.inited := rfl
@[simp] theorem beginInit_params : (beginInit s).params = s.params := rfl
@[simp] theorem beginInit_mem : (beginInit s).mem = s.mem := rfl
@[simp] theorem beginInit_display : (beginInit s).display = s.display.beginInit := rfl
@[simp] theorem beginInit_env : (beginInit s).env = s.env := rfl
@[simp] theorem beginInit_trace : (beginInit s).trace = s.trace := rfl
@[simp] theorem beginInit_client : (beginInit s).client = s.client := rfl
end beginInit

section endInit
variable (s : State)
@[simp] theorem endInit_dr : (endInit s).dr = s.dr := rfl
@[simp] theorem endInit_rsr : (endInit s).rsr = s.rsr := rfl
@[simp] theorem endInit_seq : (endInit s).seq = s.seq := rfl
@[simp] theorem endInit_bl : (endInit s).bl = s.bl := rfl
@[simp] theorem endInit_inited : (endInit s).inited = s.inited := rfl
@[simp] theorem endInit_params : (endInit s).params = s.params := rfl
@[simp] theorem endInit_mem : (endInit s).mem = s.mem := rfl
@[simp] theorem endInit_display : (endInit s).display = s.display.endInit := rfl
@[simp] theorem endInit_env : (endInit s).env = s.env := rfl
@[simp] theorem endInit_trace : (endInit s).trace = s.trace := rfl
@[simp] theorem endInit_client : (endInit s).client = s.client := rfl
end endInit

section clientTurn
variable (s : State)
@[simp] theorem clientTurn_dr : (clientTurn s).dr = s.dr := rfl
@[simp] theorem clientTurn_rsr : (clientTurn s).rsr = s.rsr := rfl
@[simp] theorem clientTurn_seq : (clientTurn s).seq = s.seq := rfl
@[simp] theorem clientTurn_bl : (clientTurn s).bl = s.bl := rfl
@[simp] theorem clientTurn_inited : (clientTurn s).inited = s.inited := rfl
@[simp] theorem clientTurn_params : (clientTurn s).params = s.params := rfl
@[simp] theorem clientTurn_mem : (clientTurn s).mem = s.mem := rfl
@[simp] theorem clientTurn_display : (clientTurn s).display = s.display := rfl
@[simp] theorem clientTurn_env : (clientTurn s).env = s.env := rfl
@[simp] theorem clientTurn_trace : (clientTurn s).trace = s.trace := rfl
@[simp] theorem clientTurn_client : (clientTurn s).client = s.client.turn := rfl
end clientTurn

section complete
variable (op : Op) (s : State)
@[simp] theorem complete_dr : (complete op s).dr = s.dr := by cases op <;> rfl
@[simp] theorem complete_rsr : (complete op s).rsr = s.rsr := by cases op <;> rfl
@[simp] theorem complete_seq : (complete op s).seq = .idle := by cases op <;> rfl
@[simp] theorem complete_bl : (complete op s).bl = s.bl := by cases op <;> rfl
@[simp] theorem complete_xfer_inited : (complete .xfer s).inited = s.inited := rfl
@[simp] theorem complete_init_inited : (complete .init s).inited = true := rfl
@[simp] theorem complete_setbl_inited : (complete .setbl s).inited = s.inited := rfl
@[simp] theorem complete_params : (complete op s).params = s.params := by cases op <;> rfl
@[simp] theorem complete_mem : (complete op s).mem = s.mem := by cases op <;> rfl
@[simp] theorem complete_xfer_display : (complete .xfer s).display = s.display := rfl
@[simp] theorem complete_init_display : (complete .init s).display = s.display.endInit := rfl
@[simp] theorem complete_setbl_display : (complete .setbl s).display = s.display := rfl
@[simp] theorem complete_env : (complete op s).env = s.env := by cases op <;> rfl
@[simp] theorem complete_trace : (complete op s).trace = s.trace ++ ([.resp .ok] : List Event) := by cases op <;> rfl
@[simp] theorem complete_client : (complete op s).client = s.client := by cases op <;> rfl
end complete

section advance
variable (op : Op) (i : Fin op.len) (s : State)
@[simp] theorem advance_dr : (advance op i s).dr = s.dr := by unfold advance; split <;> simp
@[simp] theorem advance_rsr : (advance op i s).rsr = s.rsr := by unfold advance; split <;> simp
@[simp] theorem advance_bl : (advance op i s).bl = s.bl := by unfold advance; split <;> simp
@[simp] theorem advance_params : (advance op i s).params = s.params := by unfold advance; split <;> simp
@[simp] theorem advance_mem : (advance op i s).mem = s.mem := by unfold advance; split <;> simp
@[simp] theorem advance_env : (advance op i s).env = s.env := by unfold advance; split <;> simp
@[simp] theorem advance_client : (advance op i s).client = s.client := by unfold advance; split <;> simp
end advance

section construct
variable (p : Params) (c : ClientParams)
@[simp] theorem construct_seq : (State.construct p c).seq = .idle := rfl
@[simp] theorem construct_bl : (State.construct p c).bl = p.blReset := rfl
@[simp] theorem construct_inited : (State.construct p c).inited = false := rfl
@[simp] theorem construct_params : (State.construct p c).params = p := rfl
@[simp] theorem construct_mem : (State.construct p c).mem = [] := rfl
@[simp] theorem construct_trace : (State.construct p c).trace = [] := rfl
@[simp] theorem construct_env : (State.construct p c).env = {} := rfl
@[simp] theorem construct_display : (State.construct p c).display = {} := rfl
@[simp] theorem construct_client : (State.construct p c).client = { params := c } := rfl
end construct

end Sys2Proof.Machine
end

