-- ==== Sys2Proof/Laws/Memory.lean ====
section
/-! SUPPORT. The laws of the bus address space: read after write, every other address is left alone, and every operation
keeps the canonical form. -/

namespace Sys2Proof.Machine.Memory

@[simp] theorem read_nil (a : Nat) : read [] a = none := rfl

theorem read_insert_same (a : Nat) (b : Byte) (m : Memory) : read (insert a b m) a = some b := by
  induction m with
  | nil => simp [insert, read]
  | cons c rest ih =>
    obtain ⟨k, v⟩ := c
    unfold insert
    split
    · simp [read]
    · split
      · simp [read]
      · next h => simp [read, h, ih]

theorem read_insert_other {a x : Nat} (h : x ≠ a) (b : Byte) (m : Memory) : read (insert a b m) x = read m x := by
  induction m with
  | nil => simp [insert, read, h, unlisted]
  | cons c rest ih =>
    obtain ⟨k, v⟩ := c
    unfold insert
    split
    · simp [read, h]
    · split
      · next hk => subst hk; simp [read, h]
      · simp [read, ih]

theorem read_erase_same (a : Nat) (m : Memory) : read (erase a m) a = none := by
  induction m with
  | nil => rfl
  | cons c rest ih =>
    obtain ⟨k, v⟩ := c
    unfold erase
    split
    · exact ih
    · next hk => simp [read, Ne.symm hk, ih]

theorem read_erase_other {a x : Nat} (h : x ≠ a) (m : Memory) : read (erase a m) x = read m x := by
  induction m with
  | nil => rfl
  | cons c rest ih =>
    obtain ⟨k, v⟩ := c
    unfold erase
    split
    · next hk => subst hk; simp [read, ih, h]
    · simp [read, ih]

theorem erase_sublist (a : Nat) (m : Memory) : (erase a m).Sublist m := by
  induction m with
  | nil => exact .refl _
  | cons c rest ih =>
    obtain ⟨k, v⟩ := c
    unfold erase
    split
    · exact ih.cons _
    · exact ih.cons_cons _

/-- Read after write. -/
@[simp] theorem read_set_same (m : Memory) (a : Nat) (v : Option Byte) : read (set m a v) a = v := by
  cases v with
  | none => exact read_erase_same a m
  | some b => exact read_insert_same a b m

/-- A write leaves every other address alone. -/
theorem read_set_other {a x : Nat} (h : x ≠ a) (m : Memory) (v : Option Byte) : read (set m a v) x = read m x := by
  cases v with
  | none => exact read_erase_other h m
  | some b => exact read_insert_other h b m

theorem mem_insert {a : Nat} {b : Byte} {m : Memory} {c : Host.Cell} (h : c ∈ insert a b m) : c = (a, b) ∨ c ∈ m := by
  induction m with
  | nil => simpa [insert] using h
  | cons d rest ih =>
    obtain ⟨k, v⟩ := d
    unfold insert at h
    split at h
    · simpa using h
    · split at h
      · simp only [List.mem_cons] at h ⊢; tauto
      · simp only [List.mem_cons] at h ⊢
        rcases h with h | h
        · exact .inr (.inl h)
        · rcases ih h with h | h <;> tauto

theorem insert_rising {a : Nat} {b : Byte} {m : Memory} (h : m.Pairwise (fun c d => c.1 < d.1)) :
    (insert a b m).Pairwise (fun c d => c.1 < d.1) := by
  induction m with
  | nil => simp [insert]
  | cons d rest ih =>
    obtain ⟨k, v⟩ := d
    rw [List.pairwise_cons] at h
    unfold insert
    split
    · next hk =>
      refine List.pairwise_cons.2 ⟨?_, List.pairwise_cons.2 h⟩
      rintro c hc
      rcases List.mem_cons.1 hc with rfl | hc
      · exact hk
      · exact hk.trans (h.1 c hc)
    · split
      · next hk => subst hk; exact List.pairwise_cons.2 h
      · refine List.pairwise_cons.2 ⟨?_, ih h.2⟩
        intro c hc
        rcases mem_insert hc with rfl | hc
        · show k < a; omega
        · exact h.1 c hc

theorem wf_erase {m : Memory} (h : wf m) (a : Nat) : wf (erase a m) :=
  ⟨h.1.sublist (erase_sublist a m), fun c hc => h.2 c ((erase_sublist a m).subset hc)⟩

theorem wf_insert {m : Memory} (h : wf m) {a : Nat} (ha : a < 128) (b : Byte) : wf (insert a b m) := by
  refine ⟨insert_rising h.1, fun c hc => ?_⟩
  rcases mem_insert hc with rfl | hc
  · exact ha
  · exact h.2 c hc

/-- Every memory operation keeps the canonical form. -/
theorem wf_set {m : Memory} (h : wf m) {a : Nat} (ha : a < 128) (v : Option Byte) : wf (set m a v) := by
  cases v with
  | none => exact wf_erase h a
  | some b => exact wf_insert h ha b

theorem wf_reset : wf State.reset.mem := by decide

end Sys2Proof.Machine.Memory

namespace Sys2Proof.Machine

/-- After a bus write the port holds what R34 says. -/
@[simp] theorem busWrite_port (w : Byte) (r : BusResult) (s : State) : (busWrite w r s).port = portAfter w r :=
  Memory.read_set_same _ _ _

/-- A bus write leaves every other bus address alone. -/
theorem busWrite_portAt (w : Byte) (r : BusResult) (s : State) {a : BusAddr} (h : a ≠ s.addr) :
    (busWrite w r s).portAt a = s.portAt a :=
  Memory.read_set_other (fun e => h (BitVec.eq_of_toNat_eq e)) _ _

theorem busWrite_wf (w : Byte) (r : BusResult) {s : State} (h : Memory.wf s.mem) : Memory.wf (busWrite w r s).mem :=
  Memory.wf_set h s.addr.isLt _

/-- A reset leaves nothing known of the port (R210). -/
theorem externalReset_port (s : State) : s.externalReset.port = none := by
  show Memory.read (Memory.set s.mem s.addr.toNat none) s.addr.toNat = none
  exact Memory.read_set_same _ _ _

/-- A reset leaves every other bus address alone. -/
theorem externalReset_portAt (s : State) {a : BusAddr} (h : a ≠ s.addr) : s.externalReset.portAt a = s.portAt a := by
  show Memory.read (Memory.set s.mem s.addr.toNat none) a.toNat = Memory.read s.mem a.toNat
  exact Memory.read_set_other (fun e => h (BitVec.eq_of_toNat_eq e)) _ _

/-- `PORT` and the ports at other addresses depend only on the memory and the parameters. -/
theorem portAt_congr {s t : State} (h : t.mem = s.mem) (a : BusAddr) : t.portAt a = s.portAt a := by
  unfold State.portAt; rw [h]

theorem port_congr {s t : State} (h : t.mem = s.mem) (hp : t.params = s.params) : t.port = s.port := by
  unfold State.port State.addr State.portAt; rw [h, hp]

end Sys2Proof.Machine
end

