-- ==== Sys2Proof/Laws/PerInstr.lean ====
section
/-! SUPPORT. One lemma per request, for the families named in LAWS.json. -/

namespace Sys2Proof.Laws.EncodedInItsRow

/-- The request word of the request belongs to the table row of its mnemonic and to no other (30_encoding.md R86: "The four
patterns are disjoint"). -/
def Statement (i : Instr) : Prop := ∀ r ∈ opcodeRows, r.covers (encode i) = true ↔ r.mnemonic = i.mnemonic

theorem wrcmd (b : Byte) : Statement (.wrcmd b) := by
  unfold Statement; revert b; decide

theorem wrdata (b : Byte) : Statement (.wrdata b) := by
  unfold Statement; revert b; decide

theorem init : Statement .init := by
  unfold Statement; decide

theorem setbl (v : Bit) : Statement (.setbl v) := by
  unfold Statement; revert v; decide

end Sys2Proof.Laws.EncodedInItsRow
end

