-- ==== Sys2Proof/Laws/Step.lean ====
section
/-! SUPPORT. What a step can do, said once: later proofs cite these and do not unfold the step (10_state.md R25). -/

namespace Sys2Proof.Machine

/-- The end of a micro-step: the next one, or the completion of the operation. -/
theorem advance_cases (op : Op) (i : Fin op.len) (s : State) :
    (∃ h : i.val + 1 < op.len, advance op i s = { s with seq := .run op ⟨i.val + 1, h⟩ }) ∨
    (i.val + 1 = op.len ∧ advance op i s = complete op s) := by
  unfold advance
  split
  · next h => exact .inl ⟨h, rfl⟩
  · next h => exact .inr ⟨by have := i.isLt; omega, rfl⟩

/-- After a bus write: the failure entry, exactly when it failed under `propagate`, or the end of the micro-step. -/
theorem afterWrite_cases (op : Op) (i : Fin op.len) (r : BusResult) (s : State) :
    (r = .fail ∧ s.params.policy = .propagate ∧ afterWrite op i r s = raise .busFail s) ∨
    ((r = .ok ∨ s.params.policy = .ignore) ∧ afterWrite op i r s = advance op i s) := by
  unfold afterWrite
  split
  · next h => exact .inl ⟨rfl, h, rfl⟩
  · next h => exact .inr ⟨.inr h, rfl⟩
  · exact .inr ⟨.inl rfl, rfl⟩

/-- A micro-step of the running operation: nothing when the primitive hangs, or a bus write, or a delay. -/
theorem runMicroStep_cases (op : Op) (i : Fin op.len) (s : State) :
    (s.hung = true ∧ runMicroStep op i s = s) ∨
    (s.hung = false ∧ ∃ n rs en, microStep op i = .write n rs en ∧
      runMicroStep op i s = afterWrite op i (s.answer 0) (busWrite (writeWord n rs en s) (s.answer 0) s)) ∨
    (s.hung = false ∧ ∃ d, microStep op i = .delay d ∧ runMicroStep op i s = advance op i (delay (d.value s) s)) := by
  unfold runMicroStep
  split
  · next h => exact .inl ⟨h, rfl⟩
  · next h =>
    have h : s.hung = false := by simpa using h
    split
    · next n rs en hm => exact .inr (.inl ⟨h, n, rs, en, hm, rfl⟩)
    · next d hm => exact .inr (.inr ⟨h, d, hm, rfl⟩)

/-- No micro-program ends with a delay (R24). -/
theorem delay_not_last {op : Op} {i : Fin op.len} {d : DelaySource} (h : microStep op i = .delay d) :
    i.val + 1 < op.len := by
  revert h
  cases op <;> fin_cases i <;> simp [microStep, microProgram, nibblePulse, Op.len]

/-- The state after a micro-step, in the five forms it can take: unchanged (a hang); the failure entry; a bus write with
the next micro-step to come; a bus write that completes the operation; a delay. -/
theorem runMicroStep_next (op : Op) (i : Fin op.len) (s : State) :
    runMicroStep op i s = s ∨
    (∃ w, (∃ n rs en, microStep op i = .write n rs en ∧ w = writeWord n rs en s) ∧ s.answer 0 = .fail ∧
      s.params.policy = .propagate ∧ runMicroStep op i s = raise .busFail (busWrite w .fail s)) ∨
    (∃ w r, (∃ n rs en, microStep op i = .write n rs en ∧ w = writeWord n rs en s) ∧ r = s.answer 0 ∧
      (r = .ok ∨ s.params.policy = .ignore) ∧
      ∃ h, runMicroStep op i s = { busWrite w r s with seq := .run op ⟨i.val + 1, h⟩ }) ∨
    (∃ w r, (∃ n rs en, microStep op i = .write n rs en ∧ w = writeWord n rs en s) ∧ r = s.answer 0 ∧
      (r = .ok ∨ s.params.policy = .ignore) ∧ i.val + 1 = op.len ∧
      runMicroStep op i s = complete op (busWrite w r s)) ∨
    (∃ d h, microStep op i = .delay d ∧
      runMicroStep op i s = { delay (d.value s) s with seq := .run op ⟨i.val + 1, h⟩ }) := by
  rcases runMicroStep_cases op i s with ⟨_, e⟩ | ⟨_, n, rs, en, hm, e⟩ | ⟨_, d, hm, e⟩
  · exact .inl e
  · rcases afterWrite_cases op i (s.answer 0) (busWrite (writeWord n rs en s) (s.answer 0) s) with ⟨hr, hp, k⟩ | ⟨hr, k⟩
    · exact .inr (.inl ⟨writeWord n rs en s, ⟨n, rs, en, hm, rfl⟩, hr, hp, by rw [e, k, hr]⟩)
    · rcases advance_cases op i (busWrite (writeWord n rs en s) (s.answer 0) s) with ⟨h, l⟩ | ⟨h, l⟩
      · exact .inr (.inr (.inl ⟨writeWord n rs en s, s.answer 0, ⟨n, rs, en, hm, rfl⟩, rfl, hr, h, by rw [e, k, l]⟩))
      · exact .inr (.inr (.inr (.inl
          ⟨writeWord n rs en s, s.answer 0, ⟨n, rs, en, hm, rfl⟩, rfl, hr, h, by rw [e, k, l]⟩)))
  · refine .inr (.inr (.inr (.inr ⟨d, delay_not_last hm, hm, ?_⟩)))
    rw [e]
    unfold advance
    rw [dif_pos (delay_not_last hm)]

/-- The acceptance of a byte: it is latched and its transfer starts, or it is refused. -/
theorem acceptByte_cases (rs : Bit) (b : Byte) (s : State) :
    (s.inited = true ∧ acceptByte rs b s = start .xfer (latchByte b rs s)) ∨
    (s.inited = false ∧ acceptByte rs b s = raise .uninit s) := by
  unfold acceptByte
  split
  · next h => exact .inl ⟨h, rfl⟩
  · next h => exact .inr ⟨by simpa using h, rfl⟩

/-- The acceptance of a request word: R25's five cases. -/
theorem accept_cases {q : RequestWord} {rest : List ClientItem} {s t : State} (h : accept q rest s = .next t) :
    (∃ why, decode q = .illegal why ∧ t = raise .illegalReq (takeRequest q rest s)) ∨
    (∃ b, (decode q = .request (.wrcmd b) ∨ decode q = .request (.wrdata b)) ∧ s.inited = false ∧
      t = raise .uninit (takeRequest q rest s)) ∨
    (∃ b, decode q = .request (.wrcmd b) ∧ s.inited = true ∧
      t = start .xfer (latchByte b 0 (takeRequest q rest s))) ∨
    (∃ b, decode q = .request (.wrdata b) ∧ s.inited = true ∧
      t = start .xfer (latchByte b 1 (takeRequest q rest s))) ∨
    (decode q = .request .init ∧
      t = start .init (beginInit (takeRequest q rest s).clearInited)) ∨
    (∃ v, decode q = .request (.setbl v) ∧ t = start .setbl (setBacklight v (takeRequest q rest s))) := by
  unfold accept at h
  split at h
  · next i hd =>
    cases i with
    | wrcmd b =>
      simp only [exec, execWrcmd, Host.Outcome.next.injEq] at h
      rcases acceptByte_cases 0 b (takeRequest q rest s) with ⟨hi, e⟩ | ⟨hi, e⟩
      · exact .inr (.inr (.inl ⟨b, hd, hi, h.symm.trans e⟩))
      · exact .inr (.inl ⟨b, .inl hd, hi, h.symm.trans e⟩)
    | wrdata b =>
      simp only [exec, execWrdata, Host.Outcome.next.injEq] at h
      rcases acceptByte_cases 1 b (takeRequest q rest s) with ⟨hi, e⟩ | ⟨hi, e⟩
      · exact .inr (.inr (.inr (.inl ⟨b, hd, hi, h.symm.trans e⟩)))
      · exact .inr (.inl ⟨b, .inr hd, hi, h.symm.trans e⟩)
    | init =>
      simp only [exec, execInit, Host.Outcome.next.injEq] at h
      exact .inr (.inr (.inr (.inr (.inl ⟨hd, h.symm⟩))))
    | setbl v =>
      simp only [exec, execSetbl, Host.Outcome.next.injEq] at h
      exact .inr (.inr (.inr (.inr (.inr ⟨v, hd, h.symm⟩))))
  · next why hd =>
    simp only [Host.Outcome.next.injEq] at h
    exact .inl ⟨why, hd, h.symm⟩

/-- Everything a step can do. -/
theorem step_cases {s t : State} (h : step s = .next t) :
    (∃ op i, s.seq = .run op i ∧ t = runMicroStep op i s) ∨
    (s.seq = .idle ∧ ∃ q rest, s.client.items = .request q :: rest ∧ accept q rest s = .next t) ∨
    (s.seq = .idle ∧ ∃ ms rest, s.client.items = .wait ms :: rest ∧ t = clientWait ms rest s) ∨
    (s.seq = .idle ∧ s.client.items = [] ∧ t = clientTurn s) := by
  unfold step at h
  split at h
  · next op i hs => exact .inl ⟨op, i, hs, by simpa using h.symm⟩
  · next hs =>
    unfold idleStep at h
    split at h
    · next q rest hq => exact .inr (.inl ⟨hs, q, rest, hq, h⟩)
    · next ms rest hq => exact .inr (.inr (.inl ⟨hs, ms, rest, hq, by simpa using h.symm⟩))
    · next hq => exact .inr (.inr (.inr ⟨hs, hq, by simpa using h.symm⟩))

/-- A client wait: nothing when the delay primitive hangs, or the delay. -/
theorem clientWait_cases (ms : Nat) (rest : List ClientItem) (s : State) :
    (s.hung = true ∧ clientWait ms rest s = s) ∨
    (s.hung = false ∧ clientWait ms rest s = delay ms { s with client := { s.client with items := rest } }) := by
  unfold clientWait
  split
  · next h => exact .inl ⟨h, rfl⟩
  · next h => exact .inr ⟨by simpa using h, rfl⟩

/-- No request stops the machine: its meaning answers a next state. -/
theorem exec_next (i : Instr) (s : State) : ∃ t, exec i s = .next t := by
  cases i <;> exact ⟨_, rfl⟩

/-- The machine never stops (R180: every failure is a response; R198: a hang is a state). -/
theorem step_next (s : State) : ∃ t, step s = .next t := by
  unfold step idleStep accept
  split
  · exact ⟨_, rfl⟩
  · split
    · split
      · exact exec_next _ _
      · exact ⟨_, rfl⟩
    · exact ⟨_, rfl⟩
    · exact ⟨_, rfl⟩

end Sys2Proof.Machine
end

