-- ==== Sys2Proof/Laws/Run.lean ====
section
/-! SUPPORT. Running several steps, and what the environment's answers become from step to step. -/

namespace Sys2Proof.Machine

open Sys2Proof.Safety

@[simp] theorem runSteps_zero (s : State) : runSteps 0 s = .next s := rfl

/-- The first of several steps. -/
theorem runSteps_succ {s t : State} (h : step s = .next t) (n : Nat) : runSteps (n + 1) s = runSteps n t := by
  simp only [runSteps, h]

/-- The host's run of the machine is the same function. -/
theorem runSteps_eq_core (n : Nat) (s : State) : runSteps n s = Host.Core.run Sys2Proof.core n s := by
  induction n generalizing s with
  | zero => rfl
  | succ n ih =>
    obtain ⟨t, ht⟩ := step_next s
    have e := Host.Core.run.eq_2 Sys2Proof.core s n
    have ht' : Sys2Proof.core.step s = .next t := ht
    rw [ht'] at e
    rw [runSteps_succ ht, ih]
    exact e.symm

/-- Running on from where a run has come. -/
theorem runSteps_add {s t : State} {n : Nat} (h : runSteps n s = .next t) (m : Nat) :
    runSteps (n + m) s = runSteps m t := by
  induction n generalizing s with
  | zero =>
    simp only [runSteps_zero, Host.Outcome.next.injEq] at h
    rw [Nat.zero_add, h]
  | succ n ih =>
    obtain ⟨u, hu⟩ := step_next s
    rw [runSteps_succ hu] at h
    rw [show n + 1 + m = (n + m) + 1 by omega, runSteps_succ hu, ih h]

/-- A run never stops. -/
theorem runSteps_next (n : Nat) (s : State) : ∃ t, runSteps n s = .next t := by
  induction n generalizing s with
  | zero => exact ⟨s, rfl⟩
  | succ n ih =>
    obtain ⟨u, hu⟩ := step_next s
    rw [runSteps_succ hu]
    exact ih u

/-- The step of a busy block. -/
theorem step_run {s : State} {op : Op} {i : Fin op.len} (h : s.seq = .run op i) : step s = .next (runMicroStep op i s) := by
  unfold step; rw [h]

/-- The answers depend on nothing but the environment. -/
theorem answer_congr {s t : State} (h : t.env = s.env) (k : Nat) : t.answer k = s.answer k := by
  unfold State.answer; rw [h]

/-- After a bus write the next answer is the one that came second before. -/
theorem answer_wrote {s t : State} (h : t.env = s.env.wrote) (k : Nat) : t.answer k = s.answer (k + 1) := by
  unfold State.answer Env.wrote at *
  rw [h]
  simp only [List.getElem?_tail]
  split <;> simp_all [Nat.add_assoc, Nat.add_comm 1 k]

/-- A delay uses no answer. -/
theorem answer_callReturned {s t : State} (h : t.env = s.env.callReturned) (k : Nat) : t.answer k = s.answer k := by
  unfold State.answer Env.callReturned at *
  rw [h]

@[simp] theorem callReturned_hangAfter {e : Env} (h : e.hangAfter = none) : e.callReturned.hangAfter = none := by
  simp [Env.callReturned, h]

@[simp] theorem wrote_hangAfter {e : Env} (h : e.hangAfter = none) : e.wrote.hangAfter = none := by
  simp [Env.wrote, Env.callReturned, h]

end Sys2Proof.Machine
end

