-- ==== Sys2Proof/Tests/Slice0.lean ====
section
/-! SUPPORT. The model's own tests. Expected values come from 95_test_vectors.md and the encoding tables of
30_encoding.md; the theorems named `witness_…` show a concrete case that meets the hypotheses of a statement. -/

namespace Sys2Proof.Tests

open Sys2Proof Sys2Proof.Machine Sys2Proof.Safety

/-! ## Helpers -/

/-- The next state, if there is one. -/
def got : Host.Outcome State Fault Refusal → Option State
  | .next s => some s
  | .fault _ => none
  | .refused _ => none

/-- The state after one step. -/
def after (s : State) : Option State := got (step s)

/-- Parameters of the vectors: `BL_RESET = 1`, the given policy, any address. -/
def params (policy : BusErrPolicy) : Params := { addr := 0x27, blReset := 1, policy := policy }

/-- A block with `BL = 1` whose client offers `items`; the bus answers as listed. -/
def block (policy : BusErrPolicy) (inited : Bool) (port : Option Byte) (answers : List BusResult)
    (items : List ClientItem) : State :=
  { State.construct (params policy) Config.clientParams with
    inited := inited
    mem := Memory.set [] 0x27 port
    display := { phase := if inited then .high else .unknown, lost := false }
    env := { answers := answers }
    client := { params := Config.clientParams, items := items, running := true } }

/-- `RUN(XFER, i)`, `RUN(INIT, i)`, `RUN(SETBL, 0)`. -/
def xferAt (i : Fin 6) : Seq := .run .xfer i
def initAt (i : Fin 14) : Seq := .run .init i
def setblAt : Seq := .run .setbl ⟨0, Op.len_pos .setbl⟩

/-- The same with the sequencer at `q`, operand `b` and mode `rs`. -/
def running (s : State) (q : Seq) (b : Byte) (rs : Bit) : State := { s with seq := q, dr := b, rsr := rs }

/-- An idle block in state `READY` after a completed `INIT`. -/
def ready : State := block .propagate true (some 0x28) [] []

/-! ## What the checks refuse -/

theorem test_init_with_payload_is_ill_formed : ({ op := 2, pl := 0x01 } : RequestFields).wf = false := by decide
theorem test_setbl_with_payload_is_ill_formed : ({ op := 3, pl := 0x02 } : RequestFields).wf = false := by decide
theorem test_legal_fields_are_well_formed :
    ({ op := 2, pl := 0 } : RequestFields).wf = true ∧ ({ op := 3, pl := 1 } : RequestFields).wf = true ∧
    ({ op := 0, pl := 0xFF } : RequestFields).wf = true ∧ ({ op := 1, pl := 0xFF } : RequestFields).wf = true := by decide
theorem test_first_delay_below_5_is_ill_formed :
    ({ addr := 0, blReset := 0, tInit1Ms := 4 } : Params).wf = false := by decide
theorem test_second_delay_below_1_is_ill_formed :
    ({ addr := 0, blReset := 0, tInit2Ms := 0 } : Params).wf = false := by decide
theorem test_bus_clock_out_of_range_is_ill_formed :
    ({ addr := 0, blReset := 0, fSclKHz := 99 } : Params).wf = false ∧
    ({ addr := 0, blReset := 0, fSclKHz := 401 } : Params).wf = false := by decide
theorem test_no_rows_is_ill_formed : ({ rows := 0, columns := 16 } : Geometry).wf = false := by decide
theorem test_no_columns_is_ill_formed : ({ rows := 2, columns := 0 } : Geometry).wf = false := by decide

/-! ## Encodings, written out bit by bit from R85 and 95_test_vectors.md 2.4 -/

theorem test_decode_wrcmd :
    decode 0b0000000000#10 = .request (.wrcmd 0x00) ∧ decode 0b0010000000#10 = .request (.wrcmd 0x80) ∧
    decode 0b0011111111#10 = .request (.wrcmd 0xFF) ∧ decode 0b0001011010#10 = .request (.wrcmd 0x5A) := by decide
theorem test_decode_wrdata :
    decode 0b0100000000#10 = .request (.wrdata 0x00) ∧ decode 0b0101000001#10 = .request (.wrdata 0x41) ∧
    decode 0b0111111111#10 = .request (.wrdata 0xFF) := by decide
theorem test_decode_init : decode 0b1000000000#10 = .request .init := by decide
theorem test_decode_setbl :
    decode 0b1100000000#10 = .request (.setbl 0) ∧ decode 0b1100000001#10 = .request (.setbl 1) := by decide
theorem test_reserved_words :
    decode 0x201 = .illegal .initPayload ∧ decode 0x280 = .illegal .initPayload ∧ decode 0x2FF = .illegal .initPayload ∧
    decode 0x302 = .illegal .setblPayload ∧ decode 0x303 = .illegal .setblPayload ∧
    decode 0x380 = .illegal .setblPayload ∧ decode 0x3FF = .illegal .setblPayload := by decide
/-- The numbering of spec/opcode_table.json, in whole bytes; a number above ten bits is no request word. -/
theorem test_table_words :
    decodeTableWord 16 0x0A5 = some (.wrcmd 0xA5) ∧ decodeTableWord 16 0x1A5 = some (.wrdata 0xA5) ∧
    decodeTableWord 10 0x200 = some .init ∧ decodeTableWord 16 0x301 = some (.setbl 1) ∧
    decodeTableWord 16 0x2FF = none ∧ decodeTableWord 16 0x400 = none := by decide
theorem test_text_line_refused :
    readLine ['W', 'R', 'C', 'M', 'D', ' ', '0', 'x', '8'] = none ∧
    readLine ['S', 'E', 'T', 'B', 'L', ' ', '2'] = none ∧ readLine ['W', 'A', 'I', 'T'] = none := by decide
/-- S2 of 95_test_vectors.md. -/
theorem test_expander_pins :
    expanderWord 0 0 1 0 = 0x01 ∧ expanderWord 0 0 0 1 = 0x04 ∧ expanderWord 0 1 0 0 = 0x08 ∧
    expanderWord 0xF 0 0 0 = 0xF0 := by decide
/-- S1 of 95_test_vectors.md. -/
theorem test_command_constants :
    cmdEntryMode ||| entryLeft ||| shiftDec = 0x06 ∧ cmdEntryMode ||| entryLeft ||| shiftInc = 0x07 ∧
    cmdEntryMode ||| entryRight ||| shiftDec = 0x04 ∧ cmdDdram ||| 0x40 = 0xC0 ∧ cmdClear = 0x01 ∧ cmdHome = 0x02 ∧
    cmdDisplayCtrl = 0x08 ∧ cmdShift = 0x10 ∧ cmdFunction = 0x20 ∧ cmdCgram = 0x40 := by decide

/-! ## One step of each request -/

/-- 95_test_vectors.md 2.1: the second write of `WRCMD 0x5A` with `BL = 1` is the raise `0x5C`. -/
theorem test_wrcmd_raise :
    (after (running (block .propagate true (some 0x58) [.ok] []) (xferAt 1) 0x5A 0)).map (fun t => (t.port, t.trace)) =
      some (some 0x5C, [.bus 0x27 0x5C .ok]) := by decide
/-- 95_test_vectors.md 2.1: the sixth write of `WRCMD 0xC5` with `BL = 1` is `0x58`, latches `(0, 5)` and answers `OK`. -/
theorem test_wrcmd_last_write :
    (after (running (block .propagate true (some 0x5C) [.ok] []) (xferAt 5) 0xC5 0)).map
        (fun t => (t.trace, t.seq, t.display.latches)) =
      some ([.bus 0x27 0x58 .ok, .resp .ok], .idle, [.pair 0 0x5]) := by decide
/-- 95_test_vectors.md 2.1: the first write of `WRDATA 0xA5` with `BL = 1` is `0xA9`. -/
theorem test_wrdata_setup :
    (after (running (block .propagate true (some 0x28) [.ok] []) (xferAt 0) 0xA5 1)).map (fun t => (t.port, t.seq)) =
      some (some 0xA9, xferAt 1) := by decide
/-- 95_test_vectors.md 2.5, row 4: the fifth write of `WRDATA 0xA5` fails under `propagate`. -/
theorem test_wrdata_cut_short :
    (after (running (block .propagate true (some 0x59) [.fail] []) (xferAt 4) 0xA5 1)).map
        (fun t => (t.trace, t.inited, t.port, t.bl)) =
      some ([.bus 0x27 0x5D .fail, .resp .busFail], false, none, 1) := by decide
/-- 95_test_vectors.md 2.2: the wait after the second pulse of `INIT` is 1 ms. -/
theorem test_init_second_wait :
    (after (running (block .propagate false (some 0x38) [] []) (initAt 7) 0 0)).map (fun t => (t.trace, t.seq, t.inited)) =
      some ([.wait 1], initAt 8, false) := by decide
/-- 95_test_vectors.md 2.2: the last write of `INIT` with `BL = 1` is `0x28`, and `INITED` is set. -/
theorem test_init_last_write :
    (after (running (block .propagate false (some 0x2C) [.ok] []) (initAt 13) 0 0)).map
        (fun t => (t.trace, t.inited, t.display.latches)) =
      some ([.bus 0x27 0x28 .ok, .resp .ok], true, [.pair 0 0x2]) := by decide
/-- 95_test_vectors.md 2.3: the write of `SETBL` with `BL = 1` is `0x08`, and it latches nothing. -/
theorem test_setbl_write :
    (after (running (block .propagate false (some 0x00) [.ok] []) setblAt 0 0)).map
        (fun t => (t.trace, t.port, t.display.latches)) =
      some ([.bus 0x27 0x08 .ok, .resp .ok], some 0x08, []) := by decide
/-- 95_test_vectors.md 2.3: the acceptance of `SETBL 0`. -/
theorem test_setbl_accepted :
    (after (block .propagate true (some 0x28) [] [.request 0x300])).map (fun t => (t.bl, t.busy, t.trace)) =
      some (0, true, [.req 0x300]) := by decide
/-- 95_test_vectors.md 2.5, priority: `0x2FF` in state `UNINIT` is `ILLEGAL_REQ`. -/
theorem test_illegal_before_uninit :
    (after (block .propagate false none [] [.request 0x2FF])).map (·.trace) =
      some [.req 0x2FF, .resp .illegalReq] := by decide
/-- 95_test_vectors.md 2.6: `CLEAR` refused with `UNINIT` keeps its wait. -/
theorem test_clear_refused_keeps_its_wait :
    (after (block .propagate false none [] (expandClear ++ [.request 0x006]))).map
        (fun t => (t.trace, t.client.items, t.client.code)) =
      some ([.req 0x001, .resp .uninit], [.wait 2], .uninit) := by decide
/-- 95_test_vectors.md 2.6: `INITIALIZE` whose `INIT` fails at its first write stops there. -/
theorem test_bring_up_stops :
    (after (running (block .propagate false none [.fail] (expandBringUp Config.clientParams).tail) (initAt 0) 0 0)).map
        (fun t => (t.trace, t.client.items)) =
      some ([.bus 0x27 0x38 .fail, .resp .busFail], []) := by decide
/-- 95_test_vectors.md 2.6. -/
theorem test_cursor_addresses :
    ddramAddress 0 16 = 0x10 ∧ ddramAddress 1 39 = 0x67 ∧ ddramAddress 0 79 = 0x0F ∧ ddramAddress 3 19 = 0x53 ∧
    ddramAddress 5 200 = 0x48 ∧ ddramAddress 0 (-1) = 0x3F ∧ ddramAddress (-1) 0 = 0x40 ∧
    ddramAddress (-1) (-1) = 0x7F := by decide
/-- 95_test_vectors.md 2.6. -/
theorem test_put_char :
    expandPutChar 0x41 = [.request 0x141] ∧ expandPutChar 0xE5 = [.request 0x1E5] ∧
    expandPutChar 0x20AC = [.request 0x1AC] ∧ expandPutChar 0x1F600 = [.request 0x100] := by decide
/-- R39: the first step after reset, with a request placed on the port. -/
theorem test_first_request_after_reset :
    (after (State.reset.withFetchWord 16 0x200)).map (fun t => (t.seq, t.trace)) =
      some (initAt 0, [.req 0x200]) := by decide

/-! ## Witnesses: every statement with hypotheses has a case that meets them -/

/-- `DecodeAndEncodeAreInverse`, second clause. -/
theorem witness_DecodeAndEncodeAreInverse :
    decode 0x0FF = .request (.wrcmd 0xFF) ∧ decode 0x100 = .request (.wrdata 0) ∧ decode 0x200 = .request .init ∧
    decode 0x301 = .request (.setbl 1) := by decide

/-- `OpcodeTableMatchesTheDecoder`: every row covers a word. -/
theorem witness_OpcodeTableMatchesTheDecoder :
    ∀ r ∈ opcodeRows, r ∈ opcodeRows ∧ r.covers r.pattern = true := by decide

/-- `ExternalResetPutsTheBlockInItsResetState`: another bus address than `ADDR`, a display in no initialisation, a hang. -/
theorem witness_ExternalResetPutsTheBlockInItsResetState :
    (∀ held, ready.display.phase ≠ .initialising held) ∧
    (0x28 : BusAddr) ≠ ready.addr ∧ { ready with env := { hangAfter := some 0 } }.hung = true :=
  ⟨nofun, by decide, by decide⟩

/-- `ByteRequestInReadyStartsTheTransfer`. -/
theorem witness_ByteRequestInReadyStartsTheTransfer : ready.inited = true := by decide

/-- `ByteRequestBeforeInitIsRefused`. -/
theorem witness_ByteRequestBeforeInitIsRefused : State.reset.inited = false ∧ State.reset.seq = .idle := by decide

/-- `ReservedWordIsRefused`, at the ends of both ranges. -/
theorem witness_ReservedWordIsRefused :
    ∀ q ∈ [0x201#10, 0x2FF#10, 0x302#10, 0x3FF#10], (∃ why, decode q = .illegal why) ∧
      (block .propagate false none [] [.request q]).seq = .idle ∧
      (block .propagate false none [] [.request q]).client.items = .request q :: [] := by
  intro q hq
  simp only [List.mem_cons, List.not_mem_nil, or_false] at hq
  rcases hq with rfl | rfl | rfl | rfl
  · exact ⟨⟨.initPayload, by decide⟩, rfl, rfl⟩
  · exact ⟨⟨.initPayload, by decide⟩, rfl, rfl⟩
  · exact ⟨⟨.setblPayload, by decide⟩, rfl, rfl⟩
  · exact ⟨⟨.setblPayload, by decide⟩, rfl, rfl⟩

/-- `OperatingStateDecidesWhatExecutes`, both clauses. -/
theorem witness_OperatingStateDecidesWhatExecutes :
    ready.seq = .idle ∧ ready.operatingState.executes (.wrcmd 0) = true ∧
    State.reset.seq = .idle ∧ State.reset.operatingState.executes (.wrdata 0) = false ∧
    State.reset.operatingState.executes .init = true ∧ State.reset.operatingState.executes (.setbl 1) = true := by decide

/-- `AcceptanceFrame`: each request, executed and refused, and each clause. -/
theorem witness_AcceptanceFrame :
    (∀ i : Instr, ∃ t, exec i ready = .next t) ∧ (∀ i : Instr, ∃ t, exec i State.reset = .next t) ∧
    (∀ b, Instr.init ≠ .wrcmd b ∧ Instr.init ≠ .wrdata b) ∧ (∀ v, Instr.init ≠ .setbl v) ∧
    ready.operatingState.executes (.wrdata 0) = true ∧ State.reset.operatingState.executes (.wrdata 0) = false := by
  refine ⟨fun i => ?_, fun i => ?_, fun b => ⟨nofun, nofun⟩, nofun, by decide, by decide⟩
  · cases i <;> exact ⟨_, rfl⟩
  · cases i <;> exact ⟨_, rfl⟩

/-- `StepRunsTheDecodedRequest`. -/
theorem witness_StepRunsTheDecodedRequest :
    decode 0x141 = .request (.wrdata 0x41) ∧ (block .propagate true none [] [.request 0x141, .wait 2]).seq = .idle ∧
    (block .propagate true none [] [.request 0x141, .wait 2]).client.items = .request 0x141 :: [.wait 2] := by decide

/-- `AcceptedOperationRunsItsPlan`: each operation, and a number of steps before its end. -/
theorem witness_AcceptedOperationRunsItsPlan :
    (∀ op : Op, (running ready (.run op ⟨0, op.len_pos⟩) 0x41 1).seq = .run op ⟨0, op.len_pos⟩ ∧
      (running ready (.run op ⟨0, op.len_pos⟩) 0x41 1).env.hangAfter = none) ∧
    0 < (outcome (running ready (xferAt 0) 0x41 1) (opPlan (running ready (xferAt 0) 0x41 1) .xfer)).1.length ∧
    (0x28 : BusAddr) ≠ ready.addr := by
  refine ⟨fun op => ⟨rfl, rfl⟩, ?_, by decide⟩
  unfold outcome opPlan xferPlan xferTrace
  simp only [List.map_cons, carryOut]
  split <;> simp

/-- The clauses on latches of `WrcmdFromPortToResponse`, `WrdataFromPortToResponse` and `SetblFromPortToResponse`: the
displays of the three witnesses below are in no initialisation. -/
theorem witness_no_initialisation (policy : BusErrPolicy) (b : Bool) (port : Option Byte) (answers : List BusResult)
    (items : List ClientItem) (held : List LatchEvent) :
    (block policy b port answers items).display.phase ≠ .initialising held := by
  cases b <;> nofun

/-- `WrcmdFromPortToResponse`, both clauses. -/
theorem witness_WrcmdFromPortToResponse :
    (∀ b : Bool, (block .propagate b none [] [.request (encode (.wrcmd 0xA5))]).seq = .idle ∧
      (block .propagate b none [] [.request (encode (.wrcmd 0xA5))]).client.items = .request (encode (.wrcmd 0xA5)) :: [] ∧
      (block .propagate b none [] [.request (encode (.wrcmd 0xA5))]).env.hangAfter = none ∧
      (block .propagate b none [] [.request (encode (.wrcmd 0xA5))]).inited = b) ∧
    enablePin 0x28 = false := by decide

/-- `WrdataFromPortToResponse`, both clauses. -/
theorem witness_WrdataFromPortToResponse :
    (∀ b : Bool, (block .propagate b none [] [.request (encode (.wrdata 0xA5))]).seq = .idle ∧
      (block .propagate b none [] [.request (encode (.wrdata 0xA5))]).client.items =
        .request (encode (.wrdata 0xA5)) :: [] ∧
      (block .propagate b none [] [.request (encode (.wrdata 0xA5))]).env.hangAfter = none ∧
      (block .propagate b none [] [.request (encode (.wrdata 0xA5))]).inited = b) ∧
    enablePin 0x28 = false := by decide

/-- `InitFromPortToResponse`. -/
theorem witness_InitFromPortToResponse :
    (block .ignore false none [] [.request (encode .init)]).seq = .idle ∧
    (block .ignore false none [] [.request (encode .init)]).client.items = .request (encode .init) :: [] ∧
    (block .ignore false none [] [.request (encode .init)]).env.hangAfter = none := by decide

/-- `SetblFromPortToResponse`, each clause. -/
theorem witness_SetblFromPortToResponse :
    (∀ p ∈ [BusErrPolicy.propagate, .ignore], ∀ r ∈ [BusResult.ok, .fail],
      (block p true (some 0x28) [r] [.request (encode (.setbl 0))]).seq = .idle ∧
      (block p true (some 0x28) [r] [.request (encode (.setbl 0))]).client.items = .request (encode (.setbl 0)) :: [] ∧
      (block p true (some 0x28) [r] [.request (encode (.setbl 0))]).env.hangAfter = none ∧
      (block p true (some 0x28) [r] [.request (encode (.setbl 0))]).answer 0 = r ∧
      (block p true (some 0x28) [r] [.request (encode (.setbl 0))]).params.policy = p ∧
      (block p true (some 0x28) [r] [.request (encode (.setbl 0))]).port = some 0x28) ∧
    enablePin 0x28 = false := by decide

/-- A transfer about to make six successful writes. -/
def sixOk : State := running (block .propagate true (some 0x28) [.ok, .ok, .ok, .ok, .ok, .ok] []) (xferAt 0) 0x41 1

/-- `TransferWritesItsSixWords`, and `CompletedTransferDeliversItsByte`. -/
theorem witness_sixOk :
    sixOk.seq = .run .xfer ⟨0, Op.len_pos .xfer⟩ ∧ sixOk.env.hangAfter = none ∧
    (∀ k, k < 6 → sixOk.answer k = .ok) ∧ sixOk.port = some 0x28 ∧ enablePin 0x28 = false ∧
    sixOk.display.phase = .high ∧ sixOk.display.lost = false := by decide

theorem witness_TransferWritesItsSixWords :
    sixOk.seq = .run .xfer ⟨0, Op.len_pos .xfer⟩ ∧ sixOk.env.hangAfter = none ∧
    (∀ k, k < 6 → sixOk.answer k = .ok) := by decide

/-- An `INIT` about to make twelve successful writes. -/
def twelveOk : State :=
  { running (block .propagate false (some 0x00)
      [.ok, .ok, .ok, .ok, .ok, .ok, .ok, .ok, .ok, .ok, .ok, .ok] []) (initAt 0) 0 0 with
    display := { phase := .initialising [], lost := false } }

/-- `CompletedInitOpensFourBitMode`, also while the latch trace is lost. -/
theorem witness_CompletedInitOpensFourBitMode :
    ∀ lost : Bool,
      { block .ignore true (some 0x00) [.ok, .ok, .ok, .ok, .ok, .ok, .ok, .ok, .ok, .ok, .ok, .ok]
          [.request (encode .init)] with display := { lost := lost } }.seq = .idle ∧
      { block .ignore true (some 0x00) [.ok, .ok, .ok, .ok, .ok, .ok, .ok, .ok, .ok, .ok, .ok, .ok]
          [.request (encode .init)] with display := { lost := lost } }.client.items = .request (encode .init) :: [] ∧
      { block .ignore true (some 0x00) [.ok, .ok, .ok, .ok, .ok, .ok, .ok, .ok, .ok, .ok, .ok, .ok]
          [.request (encode .init)] with display := { lost := lost } }.env.hangAfter = none ∧
      (∀ k, k < 12 → { block .ignore true (some 0x00) [.ok, .ok, .ok, .ok, .ok, .ok, .ok, .ok, .ok, .ok, .ok, .ok]
          [.request (encode .init)] with display := { lost := lost } }.answer k = .ok) ∧
      { block .ignore true (some 0x00) [.ok, .ok, .ok, .ok, .ok, .ok, .ok, .ok, .ok, .ok, .ok, .ok]
          [.request (encode .init)] with display := { lost := lost } }.port = some 0x00 ∧
      enablePin 0x00 = false := by decide

/-- Under `ignore`, after a failed write: the drop of a low nibble whose pins are known. -/
def lostDrop : State :=
  { running (block .ignore true (some 0x1D) [.ok] []) (xferAt 5) 0x41 1 with display := { lost := true } }

/-- The last write of an `INIT` after a failed write of an earlier operation. -/
def foundAgain : State :=
  { running (block .ignore false (some 0x2C) [.ok] []) (initAt 13) 0 0 with
    display := { phase := .initialising [.pair 0 0x3, .pair 0 0x3, .pair 0 0x3], lost := true } }

/-- U6: after a failed write a falling edge makes an entry of which nothing is known. -/
theorem test_latch_after_failed_write :
    (after lostDrop).map (fun t => (t.trace, t.display.latches)) =
      some ([.bus 0x27 0x19 .ok, .resp .ok], [.uncertain]) := by decide

/-- R211: a first `INIT` at the drop of its first pulse. -/
def firstInit (r : BusResult) : State :=
  { running (block .propagate false (some 0x3C) [r] []) (initAt 2) 0 0 with
    display := { phase := .initialising [.uncertain] } }

/-- R211, U14: the latches of a first `INIT` that fails, or that a reset cuts short, stay unknown. -/
theorem test_first_init_cut_short :
    (after (firstInit .fail)).map (·.display.latches) = some [.uncertain, .uncertain] ∧
    (after (firstInit .ok)).map (·.display.latches) = some [] ∧
    (after (firstInit .ok)).map (·.externalReset.display.latches) = some [.uncertain, .uncertain] := by decide

/-- `FirstWriteAfterResetIsOfInitOrSetbl`: a request offered to a reset block, and the two writes. -/
theorem witness_FirstWriteAfterResetIsOfInitOrSetbl :
    Untouched State.reset ∧ (∃ t, step (State.reset.withFetchWord 16 0x200) = .next t) ∧
    Untouched { State.reset with seq := initAt 0 } ∧ Untouched { State.reset with seq := setblAt } ∧
    microStep .init ⟨0, Op.len_pos .init⟩ = .write (.const 3) .zero 0 ∧
    microStep .setbl ⟨0, Op.len_pos .setbl⟩ = .write (.const 0) .zero 0 :=
  ⟨⟨nofun, rfl, rfl, .inl rfl⟩, ⟨_, rfl⟩, ⟨nofun, rfl, rfl, .inr (.inl rfl)⟩, ⟨nofun, rfl, rfl, .inr (.inr rfl)⟩, rfl, rfl⟩

/-- `LatchTraceIsUnknownBeforeTheFirstCompletedInit`: a step in a first `INIT`. -/
theorem witness_LatchTraceIsUnknownBeforeTheFirstCompletedInit :
    (firstInit .ok).display.lost = true ∧ ∃ t, runSteps 1 (firstInit .ok) = .next t ∧
      ∀ m u, m ≤ 1 → runSteps m (firstInit .ok) = .next u → u.inited = false := by
  refine ⟨rfl, _, rfl, fun m u hm h => ?_⟩
  obtain rfl | rfl : m = 0 ∨ m = 1 := by omega
  · cases h; rfl
  · cases h; decide

/-- `FailedWriteMakesTheLatchTraceUnknown`, each clause: a failed write, an entry while the trace is lost, the completion of
an `INIT`, the acceptance of an `INIT` and a step inside it. -/
theorem witness_FailedWriteMakesTheLatchTraceUnknown :
    (after (running (block .ignore true (some 0x28) [.fail] []) (xferAt 0) 0x41 1)).map
        (fun t => (t.trace, t.display.lost)) = some ([.bus 0x27 0x49 .fail], true) ∧
    lostDrop.display.lost = true ∧ (after lostDrop).map (·.display.lost) = some true ∧
    foundAgain.display.lost = true ∧ (after foundAgain).map (·.display.lost) = some false ∧
    (after foundAgain).map (·.display.latches) = some [.pair 0 0x3, .pair 0 0x3, .pair 0 0x3, .pair 0 0x2] ∧
    (after (block .ignore true none [] [.request 0x200])).map (·.display.phase) = some (.initialising []) ∧
    (after twelveOk).map (·.display.phase) = some (.initialising []) := by decide

/-- `FailedWriteEndsTheOperation`, at the fifth write of a transfer and the last of an `INIT`. -/
theorem witness_FailedWriteEndsTheOperation :
    (running (block .propagate true (some 0x59) [.fail] []) (xferAt 4) 0xA5 1).seq = xferAt 4 ∧
    microStep .xfer ⟨4, by decide⟩ = .write .drLow .rsr 1 ∧ microStep .init ⟨13, by decide⟩ = .write (.const 2) .zero 0 ∧
    (running (block .propagate true (some 0x59) [.fail] []) (xferAt 4) 0xA5 1).hung = false ∧
    (running (block .propagate true (some 0x59) [.fail] []) (xferAt 4) 0xA5 1).answer 0 = .fail ∧
    (running (block .propagate true (some 0x59) [.fail] []) (xferAt 4) 0xA5 1).params.policy = .propagate := by decide

/-- `IgnorePerformsEveryMicroStep`, both clauses. -/
theorem witness_IgnorePerformsEveryMicroStep :
    (∀ op : Op, (running (block .ignore false none [.fail] []) (.run op ⟨0, op.len_pos⟩) 0 0).seq = .run op ⟨0, op.len_pos⟩ ∧
      (running (block .ignore false none [.fail] []) (.run op ⟨0, op.len_pos⟩) 0 0).env.hangAfter = none ∧
      (running (block .ignore false none [.fail] []) (.run op ⟨0, op.len_pos⟩) 0 0).params.policy = .ignore) ∧
    ∃ t, accept 0x200 [] State.reset = .next t :=
  ⟨fun _ => ⟨rfl, rfl, rfl⟩, _, rfl⟩

/-- `InitedChangesOnlyAsItsRuleSays`: the three ways `INITED` changes all happen. -/
theorem witness_InitedChangesOnlyAsItsRuleSays :
    (running (block .propagate false (some 0x2C) [.ok] []) (initAt 13) 0 0).inited = false ∧
    (after (running (block .propagate false (some 0x2C) [.ok] []) (initAt 13) 0 0)).map (·.inited) = some true ∧
    (after (block .propagate true none [] [.request 0x200])).map (·.inited) = some false ∧
    (after (running (block .propagate true none [.fail] []) setblAt 0 0)).map (·.inited) = some false := by decide

/-- `HungBlockStaysForEver`. -/
theorem witness_HungBlockStaysForEver :
    { sixOk with env := { hangAfter := some 0 } }.busy = true ∧
    { sixOk with env := { hangAfter := some 0 } }.env.hangAfter = some 0 := by decide

/-- `PortFollowsTheBusWrites`, each alternative. -/
theorem witness_PortFollowsTheBusWrites :
    (after State.reset).map (·.port) = some none ∧ (after sixOk).map (·.port) = some (some 0x49) ∧
    (after (running (block .propagate true (some 0x28) [.fail] []) (xferAt 0) 0x41 1)).map (·.port) = some none ∧
    (0x28 : BusAddr) ≠ sixOk.addr := by decide

/-- `BacklightChangesOnlyBySetbl`. -/
theorem witness_BacklightChangesOnlyBySetbl :
    (block .propagate true none [] [.request 0x300]).bl = 1 ∧
    (after (block .propagate true none [] [.request 0x300])).map (·.bl) = some 0 := by decide

/-- `ParametersNeverChange`: a step with a bus event. -/
theorem witness_ParametersNeverChange :
    (after sixOk).map (·.trace) = some [.bus sixOk.addr 0x49 .ok] := by decide

/-- `LatchesAreNotReadBeforeWritten`: the reset state, and the middle of an `INIT`. -/
theorem witness_LatchesAreNotReadBeforeWritten :
    (∀ i, State.reset.seq ≠ .run .xfer i) ∧ (∀ i, twelveOk.seq ≠ .run .xfer i) := by decide

/-- `BusyBlockIgnoresTheClient`, also with a request word on the port. -/
theorem witness_BusyBlockIgnoresTheClient :
    sixOk.busy = true ∧ ∃ t, step sixOk = .next t := ⟨by decide, _, rfl⟩

/-- `StepAppendsOneLine`, `StepKeepsInitedReadFromTheTrace` and the other statements over a step: steps of an idle and of a
busy block. -/
theorem witness_StepAppendsOneLine :
    (after State.reset).map (·.trace) = some [] ∧
    (after (block .propagate true none [] [.wait 2])).map (·.trace) = some [.wait 2] ∧
    (after (block .propagate true none [] [.request 0x141])).map (·.trace) = some [.req 0x141] := by decide

/-- `MicroStepFrame`, with the delay clause and the busy clause. -/
theorem witness_MicroStepFrame :
    (running (block .propagate false (some 0x38) [] []) (initAt 3) 0 0).seq = initAt 3 ∧
    microStep .init ⟨3, by decide⟩ = .delay .tInit1 ∧ microStep .init ⟨7, by decide⟩ = .delay .tInit2 ∧
    (after (running (block .propagate false (some 0x38) [] []) (initAt 3) 0 0)).map (·.busy) = some true := by decide

/-- `InvariantsHoldAfterConstruction`: parameters at the bounds of R7. -/
theorem witness_InvariantsHoldAfterConstruction :
    ({ addr := 0, blReset := 0, fSclKHz := 100 } : Params).wf = true ∧
    ({ addr := 127, blReset := 1, policy := .ignore, fSclKHz := 400 } : Params).wf = true := by decide

/-- `StepKeepsTheBusInvariant`: a busy block with Enable high. -/
theorem witness_StepKeepsTheBusInvariant :
    BusInv (running (block .propagate true (some 0x4D) [.ok] []) (xferAt 2) 0x41 1) ∧
    ∃ t, step (running (block .propagate true (some 0x4D) [.ok] []) (xferAt 2) 0x41 1) = .next t := by
  refine ⟨⟨by decide, by decide, ?_, ?_, ?_, ?_, nofun, nofun⟩, _, rfl⟩
  · intro a w r h
    exact absurd h List.not_mem_nil
  · intro p hp
    have e : some 0x4D = some p := hp
    cases e; decide
  · intro p hp
    have e : some 0x4D = some p := hp
    cases e; decide
  · intro p hp _
    have e : some 0x4D = some p := hp
    cases e; decide

/-- `StepKeepsInitedReadFromTheTrace`: a block in the middle of a `WRDATA`. -/
theorem witness_StepKeepsInitedReadFromTheTrace :
    FollowsTrace { sixOk with trace := [.req 0x200, .resp .ok, .req 0x141] } ∧
    ∃ t, step { sixOk with trace := [.req 0x200, .resp .ok, .req 0x141] } = .next t :=
  ⟨⟨by decide, .wrdata 0x41, by decide, rfl⟩, _, rfl⟩

/-- `StepKeepsNibblesPaired`: the middle of a transfer, and the middle of an `INIT`. -/
theorem witness_StepKeepsNibblesPaired : Paired sixOk ∧ Paired twelveOk ∧ ∃ t, step sixOk = .next t := by
  refine ⟨fun _ => ⟨fun _ => ⟨⟨0x28, by decide, by decide⟩, rfl, rfl⟩, nofun⟩, fun _ => ⟨nofun, ?_⟩, _, rfl⟩
  intro i hi
  have h : Seq.run .init ⟨0, Op.len_pos .init⟩ = .run .init i := hi
  obtain rfl : ⟨0, Op.len_pos .init⟩ = i := by injection h
  exact ⟨rfl, ⟨[], rfl⟩, fun h => absurd h (by decide)⟩

/-- `CursorAddressesAreABijection`: the corners of the domain. -/
theorem witness_CursorAddressesAreABijection :
    ddramAddress 0 0 = 0x00 ∧ ddramAddress 0 63 = 0x3F ∧ ddramAddress 1 0 = 0x40 ∧ ddramAddress 1 63 = 0x7F := by decide

/-- A client about to call `INITIALIZE`, on a bus whose first write fails. -/
def bringUpFails : State :=
  { block .propagate false none [.fail] [] with
    client := { params := Config.clientParams, cursor := { row := 1, column := 5 }, calls := [.bringUp, .home] } }

/-- `InitializeMovesTheCursorByItsClear`, the second clause. -/
theorem witness_InitializeMovesTheCursorByItsClear :
    bringUpFails.seq = .idle ∧ bringUpFails.client.items = [] ∧ bringUpFails.client.running = false ∧
    bringUpFails.client.calls = .bringUp :: [.home] ∧ bringUpFails.env.hangAfter = none ∧
    (outcome bringUpFails
      (initPlan bringUpFails.bl bringUpFails.params.tInit1Ms bringUpFails.params.tInit2Ms)).2 = .busFail := by decide

/-- A `READY` block whose client, its cursor at (1, 5), offers `items` with the cursor moves `ms`. -/
def cursorBlock (items : List ClientItem) (ms : List CursorMove) : State :=
  { block .propagate true none [] items with
    client := { params := Config.clientParams, items := items, running := true, cursor := { row := 1, column := 5 }, moves := ms } }

/-- R158, R159: the stored cursor moves at the `CLEAR` of an `INITIALIZE`, not at its `DC_BYTE`; a request placed on the port
from outside moves nothing. -/
theorem test_bring_up_moves_the_cursor_at_its_clear :
    (after (cursorBlock [.request 0x00C] [.stay, .to cursorOrigin])).map (fun t => (t.client.cursor, t.client.moves)) =
      some ({ row := 1, column := 5 }, [.to cursorOrigin]) ∧
    (after (cursorBlock expandClear [.to cursorOrigin, .stay])).map (fun t => (t.client.cursor, t.client.moves)) =
      some ({ row := 0, column := 0 }, [.stay]) ∧
    (after ((cursorBlock expandClear [.to cursorOrigin]).withFetchWord 16 0x001)).map
        (fun t => (t.client.cursor, t.client.moves)) =
      some ({ row := 1, column := 5 }, [.to cursorOrigin]) := by decide

/-- `ClearAndHomeWaitUnconditionally`, both commands and both clauses. -/
theorem witness_ClearAndHomeWaitUnconditionally :
    ∀ b : Bool, ∀ cmd ∈ [(0x01 : Byte), 0x02],
      (cmd = 0x01 ∨ cmd = 0x02) ∧
      (block .propagate b none [] [.request (encode (.wrcmd cmd)), .wait 2]).seq = .idle ∧
      (block .propagate b none [] [.request (encode (.wrcmd cmd)), .wait 2]).client.items =
        .request (encode (.wrcmd cmd)) :: .wait 2 :: [] ∧
      (block .propagate b none [] [.request (encode (.wrcmd cmd)), .wait 2]).env.hangAfter = none ∧
      (block .propagate b none [] [.request (encode (.wrcmd cmd)), .wait 2]).inited = b := by decide

/-- `FailedRequestEndsItsMacro`: both clauses. -/
theorem witness_FailedRequestEndsItsMacro :
    Response.busFail ≠ .ok ∧ Response.uninit ≠ .ok ∧ Response.illegalReq ≠ .ok ∧ Response.ok = .ok := by decide

/-- `BadGeometryIsRefused`, at the bounds. -/
theorem witness_BadGeometryIsRefused :
    ({ Config.clientParams with geometry := { rows := 0, columns := 1 } }).geometry.rows ≤ 0 ∧
    ({ Config.clientParams with geometry := { rows := 1, columns := 0 } }).geometry.columns ≤ 0 ∧
    0 < ({ Config.clientParams with geometry := { rows := 1, columns := 1 } }).geometry.rows ∧
    0 < ({ Config.clientParams with geometry := { rows := 1, columns := 1 } }).geometry.columns := by decide

/-- `MacroClientAtConstruction`, with every macro. -/
theorem witness_MacroClientAtConstruction :
    [ClientCall.bringUp, .clear, .home, .moveCursor 1 5, .putChar 0x41, .putString [0x41, 0x42], .wait 2].all isMacro =
      true ∧ bytesNoClear Config.clientParams = true := by decide

/-- `StepKeepsTheClearWait`: a client in the middle of a `CLEAR`, and one that owes its wait. -/
theorem witness_StepKeepsTheClearWait :
    MacroClient { running (block .propagate true (some 0x28) [.ok] [.wait 2]) (xferAt 0) 0x01 0 with trace := [.req 0x001] } ∧
    MacroClient { block .propagate true (some 0x18) [] [.wait 2] with trace := [.req 0x001, .resp .ok] } ∧
    ∃ t, step { running (block .propagate true (some 0x28) [.ok] [.wait 2]) (xferAt 0) 0x01 0 with
      trace := [.req 0x001] } = .next t := by
  refine ⟨⟨by decide, by decide, by decide, by decide, nofun, ?_⟩, ⟨by decide, by decide, by decide, by decide, ?_, ?_⟩,
    _, rfl⟩
  · exact fun _ => ⟨0x001, by decide, by decide, fun _ => ⟨[], rfl⟩⟩
  · exact fun _ => ⟨by decide, .inr ⟨2, [], rfl, by decide⟩⟩
  · exact fun h => absurd h (by decide)

end Sys2Proof.Tests
end

section
/-! ## The state right after construction (R39, R40) -/

namespace Sys2Proof.Machine

open Sys2Proof.Safety

/-- R37: the empty address space is in canonical form. -/
theorem Memory.wf_nil : Memory.wf [] := ⟨.nil, nofun⟩

section afterConstruction
variable (p : Params) (c : ClientParams)

@[simp] theorem construct_portAt (a : BusAddr) : (State.construct p c).portAt a = none := by
  rw [State.portAt, construct_mem, Memory.read_nil]

@[simp] theorem construct_port : (State.construct p c).port = none := construct_portAt p c _

/-- R40: nothing is known of `PORT` or of the display's phase (R39) and no event has happened, so only the parameters'
bounds ask for something. -/
theorem construct_busInv (hp : p.wf = true) : BusInv (State.construct p c) where
  memCanonical := by
    rw [construct_mem]
    exact Memory.wf_nil
  paramsLegal := hp
  busEvents _ _ _ hmem := by simp at hmem
  rwLow _ hport := by simp at hport
  enable _ hport := by simp at hport
  backlight _ hport := by simp at hport
  initialising _ hphase := by simp at hphase
  lostPhase _ := by simp

/-- R192: the empty trace reads as `UNINIT` with no request pending. -/
theorem construct_followsTrace : FollowsTrace (State.construct p c) := ⟨rfl, rfl⟩

/-- R36: the block is neither `READY` nor in an `INIT`, the two situations of which the pairing speaks. -/
theorem construct_paired : Paired (State.construct p c) := by
  intro _
  constructor
  · intro hready
    simp at hready
  · intro i hseq
    simp at hseq

end afterConstruction

/-- Settles O40: each invariant holds in the constructed state by its own lemma. That the display's phase is unknown there is
R39's; how it is tracked from then on is the model's (log 9). -/
theorem invariantsHoldAfterConstruction : Obligations.InvariantsHoldAfterConstruction := by
  intro p c hp
  exact ⟨construct_busInv p c hp, construct_followsTrace p c, construct_paired p c⟩

end Sys2Proof.Machine
end

section
/-! ## The lines of the step relation (R25)

`step_cases`, `accept_cases` and `runMicroStep_cases` in one type, so that a proof about a step has one named case per
line. -/

namespace Sys2Proof.Machine

open Sys2Proof.Safety

/-- The lines of R25 from `s`, each with the state it leads to. -/
inductive StepLine (s : State) : State → Prop
  /-- A primitive does not return (R198). -/
  | hang : StepLine s s
  /-- The client has no item left. -/
  | turn (hseq : s.seq = .idle) : StepLine s (clientTurn s)
  /-- The client waits. -/
  | wait (hseq : s.seq = .idle) (ms : Nat) (rest : List ClientItem) :
      StepLine s (delay ms { s with client := { s.client with items := rest } })
  /-- A word is refused: reserved, or a byte request in `UNINIT`. -/
  | refuse (hseq : s.seq = .idle) (q : RequestWord) (rest : List ClientItem) (f : Failure)
      (hf : f = .uninit ∨ f = .illegalReq) (hnoInit : decode q ≠ .request .init) :
      StepLine s (raise f (takeRequest q rest s))
  /-- A byte request is accepted. -/
  | byte (hseq : s.seq = .idle) (q : RequestWord) (rest : List ClientItem) (i : Instr) (b : Byte) (rs : Bit)
      (hdecode : decode q = .request i) (hop : opOf i = .xfer) (hinited : s.inited = true) :
      StepLine s (start .xfer (latchByte b rs (takeRequest q rest s)))
  /-- `INIT` is accepted. -/
  | init (hseq : s.seq = .idle) (q : RequestWord) (rest : List ClientItem) (hdecode : decode q = .request .init) :
      StepLine s (start .init (beginInit (takeRequest q rest s).clearInited))
  /-- `SETBL v` is accepted. -/
  | setbl (hseq : s.seq = .idle) (q : RequestWord) (rest : List ClientItem) (v : Bit)
      (hitems : s.client.items = .request q :: rest) (hdecode : decode q = .request (.setbl v)) :
      StepLine s (start .setbl (setBacklight v (takeRequest q rest s)))
  /-- A bus write fails under `propagate`. -/
  | fail (op : Op) (i : Fin op.len) (n : NibbleSource) (m : ModeSource) (en : Bit) (hseq : s.seq = .run op i)
      (hmicro : microStep op i = .write n m en) (hpolicy : s.params.policy = .propagate) :
      StepLine s (raise .busFail (busWrite (writeWord n m en s) .fail s))
  /-- A bus write, and the operation goes on. -/
  | write (op : Op) (i : Fin op.len) (n : NibbleSource) (m : ModeSource) (en : Bit) (r : BusResult)
      (hseq : s.seq = .run op i) (hmicro : microStep op i = .write n m en)
      (hgoes : r = .ok ∨ s.params.policy = .ignore) (hlt : i.val + 1 < op.len) :
      StepLine s (advance op i (busWrite (writeWord n m en s) r s))
  /-- The last bus write of an operation, which completes. -/
  | finish (op : Op) (i : Fin op.len) (n : NibbleSource) (m : ModeSource) (en : Bit) (r : BusResult)
      (hseq : s.seq = .run op i) (hmicro : microStep op i = .write n m en)
      (hgoes : r = .ok ∨ s.params.policy = .ignore) (hlast : i.val + 1 = op.len) :
      StepLine s (complete op (busWrite (writeWord n m en s) r s))
  /-- A delay of the operation. -/
  | delay (op : Op) (i : Fin op.len) (d : DelaySource) (hseq : s.seq = .run op i)
      (hmicro : microStep op i = .delay d) (hlt : i.val + 1 < op.len) :
      StepLine s (advance op i (delay (d.value s) s))

/-- A micro-step is one of the last four lines, or hangs. -/
theorem stepLine_runMicroStep {op : Op} {i : Fin op.len} {s : State} (hseq : s.seq = .run op i) :
    StepLine s (runMicroStep op i s) := by
  rcases runMicroStep_cases op i s with ⟨_, e⟩ | ⟨_, n, m, en, hmicro, e⟩ | ⟨_, d, hmicro, e⟩
  · rw [e]
    exact .hang
  · rw [e]
    rcases afterWrite_cases op i (s.answer 0) (busWrite (writeWord n m en s) (s.answer 0) s)
      with ⟨hr, hpolicy, e⟩ | ⟨hgoes, e⟩
    · rw [e, hr]
      exact .fail op i n m en hseq hmicro hpolicy
    · rw [e]
      by_cases hlt : i.val + 1 < op.len
      · exact .write op i n m en _ hseq hmicro hgoes hlt
      · rw [advance, dif_neg hlt]
        exact .finish op i n m en _ hseq hmicro hgoes (by omega)
  · rw [e]
    exact .delay op i d hseq hmicro (delay_not_last hmicro)

/-- The acceptance of a word is one of the four lines that take a request. -/
theorem stepLine_accept {q : RequestWord} {rest : List ClientItem} {s t : State} (hseq : s.seq = .idle)
    (hitems : s.client.items = .request q :: rest) (h : accept q rest s = .next t) : StepLine s t := by
  rcases accept_cases h with ⟨why, hd, rfl⟩ | ⟨b, hd, -, rfl⟩ | ⟨b, hd, hinited, rfl⟩ |
    ⟨b, hd, hinited, rfl⟩ | ⟨hd, rfl⟩ | ⟨v, hd, rfl⟩
  · exact .refuse hseq q rest .illegalReq (.inr rfl) (by simp [hd])
  · exact .refuse hseq q rest .uninit (.inl rfl) (by rcases hd with hd | hd <;> simp [hd])
  · exact .byte hseq q rest _ b 0 hd rfl hinited
  · exact .byte hseq q rest _ b 1 hd rfl hinited
  · exact .init hseq q rest hd
  · exact .setbl hseq q rest v hitems hd

/-- Every step is one of the lines. -/
theorem stepLine_of_step {s t : State} (h : step s = .next t) : StepLine s t := by
  rcases step_cases h with ⟨op, i, hseq, rfl⟩ | ⟨hseq, q, rest, hitems, h⟩ | ⟨hseq, ms, rest, -, rfl⟩ |
    ⟨hseq, -, rfl⟩
  · exact stepLine_runMicroStep hseq
  · exact stepLine_accept hseq hitems h
  · rcases clientWait_cases ms rest s with ⟨-, e⟩ | ⟨-, e⟩ <;> rw [e]
    · exact .hang
    · exact .wait hseq ms rest
  · exact .turn hseq

section advance
variable {op : Op} {i : Fin op.len} (hlt : i.val + 1 < op.len) (s : State)
include hlt

/-- Before its last micro-step an operation only moves on. -/
theorem advance_of_lt : advance op i s = { s with seq := .run op ⟨i.val + 1, hlt⟩ } := dif_pos hlt

@[simp] theorem advance_seq_of_lt : (advance op i s).seq = .run op ⟨i.val + 1, hlt⟩ := by rw [advance_of_lt hlt]
@[simp] theorem advance_inited_of_lt : (advance op i s).inited = s.inited := by rw [advance_of_lt hlt]
@[simp] theorem advance_display_of_lt : (advance op i s).display = s.display := by rw [advance_of_lt hlt]
@[simp] theorem advance_trace_of_lt : (advance op i s).trace = s.trace := by rw [advance_of_lt hlt]
end advance

/-- R27: the completion of an operation sets `INITED` if it is `INIT`. -/
theorem complete_inited (op : Op) (s : State) : (complete op s).inited = (s.inited || decide (op = .init)) := by
  cases op <;> simp

/-- The completion of an operation leaves the display, or is that of an `INIT`. -/
theorem complete_display_cases (op : Op) (s : State) :
    (op = .init ∧ (complete op s).display = s.display.endInit) ∨
    (op ≠ .init ∧ (complete op s).display = s.display) := by
  cases op <;> simp

/-- R185: a refusal leaves `INITED`. -/
theorem raise_refusal_inited {f : Failure} (hf : f = .uninit ∨ f = .illegalReq) (s : State) :
    (raise f s).inited = s.inited := by
  rcases hf with rfl | rfl <;> rfl

theorem busy_eq_true {s : State} : s.busy = true ↔ s.seq ≠ .idle := by simp [State.busy]
theorem busy_eq_false {s : State} : s.busy = false ↔ s.seq = .idle := by simp [State.busy]

/-- R28, R30: no step changes a parameter. -/
theorem step_params {s t : State} (h : step s = .next t) : t.params = s.params := by
  cases stepLine_of_step h <;> simp

theorem addr_congr {s t : State} (h : t.params = s.params) : t.addr = s.addr := by rw [State.addr, h, State.addr]

/-- R34: a step makes no bus write and leaves the bus address space, or makes one to `ADDR`. -/
theorem step_bus_cases {s t : State} (h : step s = .next t) :
    (t.mem = s.mem ∧ ∃ es, Emits s t es ∧ ∀ a w r, Event.bus a w r ∉ es) ∨
    (∃ n m en r es, t.mem = (busWrite (writeWord n m en s) r s).mem ∧
      Emits s t (.bus s.addr (writeWord n m en s) r :: es) ∧ ∀ a w r, Event.bus a w r ∉ es) := by
  cases stepLine_of_step h with
  | hang => exact .inl ⟨rfl, [], by simp [Emits]⟩
  | turn hseq => exact .inl ⟨rfl, [], by simp [Emits]⟩
  | wait hseq ms rest => exact .inl ⟨rfl, [.wait ms], rfl, by simp⟩
  | refuse hseq q rest f => exact .inl ⟨raise_mem _ _, [.req q, .resp f.code], by simp [Emits]⟩
  | byte hseq q rest => exact .inl ⟨rfl, [.req q], rfl, by simp⟩
  | init hseq q rest => exact .inl ⟨rfl, [.req q], rfl, by simp⟩
  | setbl hseq q rest => exact .inl ⟨rfl, [.req q], rfl, by simp⟩
  | fail op i n m en => exact .inr ⟨n, m, en, .fail, [.resp .busFail], by simp [Emits, Failure.code]⟩
  | write op i n m en r hseq hmicro hgoes hlt => exact .inr ⟨n, m, en, r, [], by simp [Emits, hlt]⟩
  | finish op i n m en r => exact .inr ⟨n, m, en, r, [.resp .ok], by simp [Emits]⟩
  | delay op i d hseq hmicro hlt => exact .inl ⟨advance_mem _ _ _, [.wait (d.value s)], by simp [Emits, hlt]⟩

end Sys2Proof.Machine
end

section
/-! ## Micro-programs and words (R24, R81) -/

namespace Sys2Proof.Machine

open Sys2Proof.Safety

/-- R81: `RW` is low in every word. -/
@[simp] theorem expanderWord_rw (n : Nibble) (bl rs en : Bit) : Byte.bit (expanderWord n bl rs en) 1 = false := by
  revert n bl rs en; decide

/-- R81: bit 2 is Enable. -/
@[simp] theorem expanderWord_enable (n : Nibble) (bl rs en : Bit) :
    enablePin (expanderWord n bl rs en) = (en == 1) := by
  revert n bl rs en; decide

/-- R81: bit 3 is the backlight. -/
@[simp] theorem expanderWord_backlight (n : Nibble) (bl rs en : Bit) :
    Byte.bit (expanderWord n bl rs en) 3 = bl.getLsbD 0 := by
  revert n bl rs en; decide

@[simp] theorem expanderWord_rsPin (n : Nibble) (bl rs en : Bit) : rsPin (expanderWord n bl rs en) = rs := by
  revert n bl rs en; decide

@[simp] theorem expanderWord_dataPins (n : Nibble) (bl rs en : Bit) : dataPins (expanderWord n bl rs en) = n := by
  revert n bl rs en; decide

/-- R53: the halves of a byte. -/
theorem highNibble_append_lowNibble (b : Byte) : highNibble b ++ lowNibble b = b := by
  revert b; decide

/-- R24: the micro-step is a write with Enable high. -/
def MicroStep.raises : MicroStep → Bool
  | .write _ _ en => en == 1
  | .delay _ => false

/-- R24: the micro-step is a delay. -/
def MicroStep.isDelay : MicroStep → Bool
  | .write _ _ _ => false
  | .delay _ => true

/-- R24: `raisedBefore` says whether the micro-step before was a raise. -/
theorem raisedBefore_succ (op : Op) : ∀ (i : Fin op.len) (hlt : i.val + 1 < op.len),
    raisedBefore (.run op ⟨i.val + 1, hlt⟩) = (microStep op i).raises := by
  cases op <;> decide

/-- R24: no operation ends with a raise. -/
theorem raises_last (op : Op) : ∀ i : Fin op.len, i.val + 1 = op.len → (microStep op i).raises = false := by
  cases op <;> decide

/-- R24: only `INIT` has delays; none is its first micro-step, none follows a raise. -/
theorem isDelay_init (op : Op) : ∀ i : Fin op.len, (microStep op i).isDelay = true →
    op = .init ∧ 0 < i.val ∧ raisedBefore (.run op i) = false := by
  cases op <;> decide

/-- R112: the micro-step `i` of `XFER`, the high half before the low one, each set up, raised and dropped. -/
theorem microStep_xfer : ∀ i : Fin Op.xfer.len, microStep .xfer i =
    .write (if i.val < 3 then .drHigh else .drLow) .rsr (if i.val % 3 = 1 then 1 else 0) := by
  decide

end Sys2Proof.Machine
end

section
/-! ## The bus and pin invariant (R40) -/

namespace Sys2Proof.Machine

open Sys2Proof.Safety

/-- R40 (a), (b), (d): what a known `PORT` shows. -/
def PinsAgree (s : State) : Prop :=
  ∀ p, s.port = some p → Byte.bit p 1 = false ∧ enablePin p = raisedBefore s.seq ∧
    (backlightPending s.seq = false → Byte.bit p 3 = s.bl.getLsbD 0)

/-- A step without a bus write keeps what the pins show, if Enable is to be as it was and a change of `BL` is pending. -/
theorem PinsAgree.of_mem_eq {s t : State} (hs : PinsAgree s) (hmem : t.mem = s.mem) (hparams : t.params = s.params)
    (hraised : raisedBefore t.seq = raisedBefore s.seq)
    (hbl : backlightPending t.seq = false → backlightPending s.seq = false ∧ t.bl = s.bl) : PinsAgree t := by
  intro p hp
  obtain ⟨hrw, henable, hlight⟩ := hs p (port_congr hmem hparams ▸ hp)
  refine ⟨hrw, henable.trans hraised.symm, fun hpending => ?_⟩
  obtain ⟨hpending, hbl⟩ := hbl hpending
  rw [hbl]
  exact hlight hpending

/-- After a bus write a known `PORT` shows its word, if Enable is to be as the word has it. -/
theorem PinsAgree.of_busWrite {s t : State} {n : NibbleSource} {m : ModeSource} {en : Bit} {r : BusResult}
    (hmem : t.mem = (busWrite (writeWord n m en s) r s).mem) (hparams : t.params = s.params) (hbl : t.bl = s.bl)
    (hraised : raisedBefore t.seq = (en == 1)) : PinsAgree t := by
  intro p hp
  have hport : portAfter (writeWord n m en s) r = some p := by
    rw [← hp, port_congr (s := busWrite (writeWord n m en s) r s) hmem hparams, busWrite_port]
  cases r with
  | fail => simp [portAfter] at hport
  | ok =>
    obtain rfl : writeWord n m en s = p := by simpa [portAfter] using hport
    simp [writeWord, hraised, hbl]

/-- R40 (a), (b), (d): every step keeps what a known `PORT` shows. -/
theorem step_keeps_pinsAgree {s t : State} (hs : PinsAgree s) (h : step s = .next t) : PinsAgree t := by
  cases stepLine_of_step h with
  | hang => exact hs
  | turn hseq => exact hs
  | wait hseq ms rest => exact hs
  | refuse hseq q rest f => exact hs.of_mem_eq (by simp) (by simp) (by simp [hseq]) (by simp [hseq])
  | byte hseq q rest i b rs =>
    exact hs.of_mem_eq (by simp) (by simp) (by simp [hseq, raisedBefore]) (by simp [hseq, backlightPending])
  | init hseq q rest =>
    exact hs.of_mem_eq (by simp) (by simp) (by simp [hseq, raisedBefore]) (by simp [hseq, backlightPending])
  | setbl hseq q rest v =>
    exact hs.of_mem_eq (by simp) (by simp) (by simp [hseq, raisedBefore]) (by simp [backlightPending])
  | fail op i n m en =>
    intro p hp
    simp [port_congr (raise_mem _ _) (raise_params _ _), portAfter] at hp
  | write op i n m en r hseq hmicro hgoes hlt =>
    refine .of_busWrite (advance_mem _ _ _) (advance_params _ _ _) (advance_bl _ _ _) ?_
    rw [advance_seq_of_lt hlt, raisedBefore_succ, hmicro, MicroStep.raises]
  | finish op i n m en r hseq hmicro hgoes hlast =>
    refine .of_busWrite (complete_mem _ _) (complete_params _ _) (complete_bl _ _) ?_
    have hlow : (microStep op i).raises = false := raises_last op i hlast
    rw [hmicro, MicroStep.raises] at hlow
    rw [complete_seq, hlow, raisedBefore]
  | delay op i d hseq hmicro hlt =>
    obtain ⟨rfl, -, hlow⟩ := isDelay_init op i (by rw [hmicro, MicroStep.isDelay])
    refine hs.of_mem_eq (by simp) (by simp) ?_ (by simp [hseq, backlightPending])
    rw [advance_seq_of_lt hlt, raisedBefore_succ, hmicro, hseq, hlow, MicroStep.raises]

/-- R37: every step keeps the address space canonical. -/
theorem step_keeps_memCanonical {s t : State} (hs : Memory.wf s.mem) (h : step s = .next t) : Memory.wf t.mem := by
  rcases step_bus_cases h with ⟨hmem, -⟩ | ⟨n, m, en, r, es, hmem, -⟩ <;> rw [hmem]
  · exact hs
  · exact busWrite_wf _ _ hs

/-- R28, R40 (f): a bus write of a step goes to `ADDR`, and its word comes from a micro-step. -/
theorem step_bus_event {s t : State} (h : step s = .next t) {a : BusAddr} {w : Byte} {r : BusResult}
    (hmem : Event.bus a w r ∈ t.trace) :
    Event.bus a w r ∈ s.trace ∨ (a = s.addr ∧ ∃ n m en, w = writeWord n m en s) := by
  rcases step_bus_cases h with ⟨-, es, htrace, hquiet⟩ | ⟨n, m, en, r', es, -, htrace, hquiet⟩ <;>
    rw [htrace, List.mem_append] at hmem <;> rcases hmem with hold | hnew
  · exact .inl hold
  · exact absurd hnew (hquiet a w r)
  · exact .inl hold
  · rcases List.mem_cons.1 hnew with e | hnew
    · cases e
      exact .inr ⟨rfl, n, m, en, rfl⟩
    · exact absurd hnew (hquiet a w r)

@[simp] theorem Display.observe_fail_phase (d : Display) (before : Option Byte) (w : Byte) :
    (d.observe before w .fail).phase = .unknown := rfl

@[simp] theorem Display.observe_fail_lost (d : Display) (before : Option Byte) (w : Byte) :
    (d.observe before w .fail).lost = true := rfl

/-- A bus write begins no initialisation. -/
theorem Display.initialising_of_observe {d : Display} {before : Option Byte} {w : Byte} {r : BusResult}
    {held : List LatchEvent} (h : (d.observe before w r).phase = .initialising held) :
    ∃ held', d.phase = .initialising held' := by
  cases r with
  | fail => simp at h
  | ok => exact (d.observe_ok_initialising before w).1 ⟨held, h⟩

/-- After the completion of an `INIT` the display is in no initialisation. -/
theorem Display.endInit_phase_ne (d : Display) (held : List LatchEvent) : d.endInit.phase ≠ .initialising held := by
  unfold Display.endInit
  split <;> simp

/-- The display is in an initialisation only while an `INIT` runs (log 9). -/
def InitialisingInInit (s : State) : Prop := ∀ held, s.display.phase = .initialising held → ∃ i, s.seq = .run .init i

/-- An idle block's display is in no initialisation. -/
theorem InitialisingInInit.not_of_idle {s : State} (hs : InitialisingInInit s) (hseq : s.seq = .idle)
    (held : List LatchEvent) : s.display.phase ≠ .initialising held := by
  intro hphase
  obtain ⟨i, hi⟩ := hs held hphase
  simp [hseq] at hi

theorem step_keeps_initialisingInInit {s t : State} (hs : InitialisingInInit s) (h : step s = .next t) :
    InitialisingInInit t := by
  intro held hphase
  cases stepLine_of_step h with
  | hang => exact hs held hphase
  | turn hseq => exact hs held hphase
  | wait hseq ms rest => exact hs held hphase
  | refuse hseq q rest f => exact absurd (by simpa using hphase) (hs.not_of_idle hseq held)
  | byte hseq q rest i b rs => exact absurd (by simpa using hphase) (hs.not_of_idle hseq held)
  | init hseq q rest => exact ⟨_, start_seq _ _⟩
  | setbl hseq q rest v => exact absurd (by simpa using hphase) (hs.not_of_idle hseq held)
  | fail op i n m en => simp at hphase
  | write op i n m en r hseq hmicro hgoes hlt =>
    simp only [advance_display_of_lt hlt, busWrite_display] at hphase
    obtain ⟨held', hphase⟩ := Display.initialising_of_observe hphase
    obtain ⟨j, hj⟩ := hs held' hphase
    obtain rfl : op = .init := (Seq.run.inj (hseq.symm.trans hj)).1
    exact ⟨_, advance_seq_of_lt hlt _⟩
  | finish op i n m en r hseq =>
    rcases complete_display_cases op (busWrite (writeWord n m en s) r s) with ⟨-, e⟩ | ⟨hop, e⟩
    · exact absurd (e ▸ hphase) (Display.endInit_phase_ne _ _)
    · rw [e, busWrite_display] at hphase
      obtain ⟨held', hphase⟩ := Display.initialising_of_observe hphase
      obtain ⟨j, hj⟩ := hs held' hphase
      exact absurd (Seq.run.inj (hseq.symm.trans hj)).1 hop
  | delay op i d hseq hmicro hlt =>
    obtain ⟨rfl, -⟩ := isDelay_init op i (by rw [hmicro, MicroStep.isDelay])
    exact ⟨_, advance_seq_of_lt hlt _⟩

/-- While the latch trace is lost nothing is known of the pairing of nibbles (U6, R211). -/
def Display.LostPhase (d : Display) : Prop :=
  d.lost = true → d.phase = .unknown ∨ ∃ held, d.phase = .initialising held

/-- A display whose phase is unknown pairs no nibble. -/
theorem Display.take_phase_unknown {d : Display} (h : d.phase = .unknown) (e : Option LatchEvent) :
    (d.take e).phase = .unknown := by
  cases e with
  | none => exact h
  | some e => cases e <;> simp [Display.take, h]

/-- Every bus write keeps it. -/
theorem Display.LostPhase.observe {d : Display} (hd : d.LostPhase) (before : Option Byte) (w : Byte) (r : BusResult) :
    (d.observe before w r).LostPhase := by
  intro hlost
  cases r with
  | fail => exact .inl rfl
  | ok =>
    rcases hd (by simpa using hlost) with hphase | hphase
    · rw [Display.observe_ok _ _ _ (.inr (by simp [hphase]))]
      exact .inl (Display.take_phase_unknown hphase _)
    · exact .inr ((d.observe_ok_initialising before w).2 hphase)

/-- The completion of an `INIT` keeps it: either the trace is found again, or nothing is known. -/
theorem Display.lostPhase_endInit (d : Display) : d.endInit.LostPhase := by
  intro hlost
  unfold Display.endInit at hlost ⊢
  split at hlost
  · simp at hlost
  · exact .inl rfl

theorem step_keeps_lostPhase {s t : State} (hs : s.display.LostPhase) (h : step s = .next t) : t.display.LostPhase := by
  cases stepLine_of_step h with
  | init hseq q rest => exact fun _ => .inr ⟨[], rfl⟩
  | fail op i n m en => rw [raise_display]; exact hs.observe _ _ _
  | write op i n m en r hseq hmicro hgoes hlt => rw [advance_display_of_lt hlt]; exact hs.observe _ _ _
  | finish op i n m en r hseq =>
    rcases complete_display_cases op (busWrite (writeWord n m en s) r s) with ⟨-, e⟩ | ⟨-, e⟩
    · rw [e]; exact Display.lostPhase_endInit _
    · rw [e]; exact hs.observe _ _ _
  | delay op i d hseq hmicro hlt => simpa [hlt] using hs
  | _ => simpa using hs

/-- Settles O41: each clause is kept by its own lemma. -/
theorem stepKeepsTheBusInvariant : Obligations.StepKeepsTheBusInvariant := by
  intro s t hs h
  have hpins : PinsAgree t :=
    step_keeps_pinsAgree (fun p hp => ⟨hs.rwLow p hp, hs.enable p hp, hs.backlight p hp⟩) h
  have hparams : t.params = s.params := step_params h
  exact {
    memCanonical := step_keeps_memCanonical hs.memCanonical h
    paramsLegal := hparams ▸ hs.paramsLegal
    busEvents := fun a w r hmem => by
      rw [addr_congr hparams]
      rcases step_bus_event h hmem with hold | ⟨ha, n, m, en, rfl⟩
      · exact hs.busEvents a w r hold
      · exact ⟨ha, expanderWord_rw _ _ _ _⟩
    rwLow := fun p hp => (hpins p hp).1
    enable := fun p hp => (hpins p hp).2.1
    backlight := fun p hp => (hpins p hp).2.2
    initialising := step_keeps_initialisingInInit hs.initialising h
    lostPhase := step_keeps_lostPhase hs.lostPhase h }

end Sys2Proof.Machine
end

section
/-! ## `INITED` read off the trace (R27, R192) -/

namespace Sys2Proof

open Sys2Proof.Machine Sys2Proof.Safety

/-- R85: without bits 7:1 the payload of a word with `op = 3` is its bit 0. -/
theorem setbl_word_of_payload : ∀ pl : Byte, pl.extractLsb' 1 7 = 0b0000000#7 →
    encode (.setbl (pl.extractLsb' 0 1)) = 0b11#2 ++ pl := by
  decide

/-- R85, R86: a word that decodes to a request is that request's word. -/
theorem encode_of_decode {q : RequestWord} {i : Instr} (h : decode q = .request i) : encode i = q := by
  obtain ⟨op, pl, rfl⟩ : ∃ (op : BitVec 2) (pl : Byte), q = op ++ pl := ⟨_, _, (op_append_pl q).symm⟩
  unfold decode at h
  simp only [op_append, pl_append] at h
  split at h
  · next hop => cases h; rw [hop, encode]
  · split at h
    · next hop => cases h; rw [hop, encode]
    · split at h
      · next hop =>
        split at h
        · next hpl => cases h; rw [hop, hpl, encode]
        · cases h
      · next h0 h1 h2 =>
        have hop : op = 0b11#2 := by bv_omega
        split at h
        · next hpl => cases h; rw [hop, setbl_word_of_payload pl hpl]
        · cases h

/-- R85: `0x200` is the word of `INIT` and of no other request. -/
theorem encode_eq_init_word (i : Instr) : encode i = 0x200#10 ↔ opOf i = .init := by
  cases i with
  | wrcmd b => revert b; decide
  | wrdata b => revert b; decide
  | init => decide
  | setbl v => revert v; decide

theorem decode_init_word : decode 0x200#10 = .request .init := by decide

end Sys2Proof

namespace Sys2Proof.Safety

open Sys2Proof.Machine

theorem readTrace_append (policy : BusErrPolicy) (tr es : List Event) :
    readTrace policy (tr ++ es) = es.foldl (Reader.read policy) (readTrace policy tr) := List.foldl_append

/-- R27: a bus write that does not end its operation tells the reader nothing. -/
theorem Reader.read_bus_of_goes {policy : BusErrPolicy} {r : BusResult} (h : r = .ok ∨ policy = .ignore) (m : Reader)
    (a : BusAddr) (w : Byte) : m.read policy (.bus a w r) = m := by
  cases r with
  | ok => rfl
  | fail =>
    obtain rfl : policy = .ignore := by simpa using h
    rfl

/-- The reader knows `INITED` and which request the sequencer works on. -/
structure Reader.Knows (m : Reader) (inited : Bool) (q : Seq) : Prop where
  ready : m.ready = inited
  idle : q = .idle → m.pending = none
  run : ∀ op i, q = .run op i → ∃ instr, m.pending = some (encode instr) ∧ opOf instr = op

theorem followsTrace_iff (s : State) : FollowsTrace s ↔ (readTrace s.params.policy s.trace).Knows s.inited s.seq := by
  unfold FollowsTrace
  constructor
  · rintro ⟨hready, hseq⟩
    refine ⟨hready, fun hq => ?_, fun op i hq => ?_⟩ <;> rw [hq] at hseq <;> exact hseq
  · rintro ⟨hready, hidle, hrun⟩
    refine ⟨hready, ?_⟩
    split
    · next hq => exact hidle hq
    · next op i hq => exact hrun op i hq

namespace Reader.Knows

variable {policy : BusErrPolicy} {m : Reader} {inited : Bool} {q : RequestWord}

/-- R192: a request other than `INIT` leaves the state as it is, and its operation is the one that runs. -/
theorem accepted (hm : m.Knows inited .idle) {i : Instr} {op : Op} (hdecode : decode q = .request i)
    (hi : opOf i = op) (hop : op ≠ .init) : (m.read policy (.req q)).Knows inited (.run op ⟨0, op.len_pos⟩) := by
  obtain rfl := encode_of_decode hdecode
  have hne : encode i ≠ 0x200#10 := fun e => hop (hi.symm.trans ((encode_eq_init_word i).1 e))
  exact ⟨by simp [Reader.read, hne, hm.ready], nofun, fun _ _ hq => ⟨i, rfl, hi.trans (Seq.run.inj hq).1⟩⟩

/-- R192: `UNINIT` is entered by the acceptance of `INIT`. -/
theorem accepted_init (m : Reader) :
    (m.read policy (.req 0x200#10)).Knows false (.run .init ⟨0, Op.len_pos .init⟩) :=
  ⟨by simp [Reader.read], nofun, fun _ _ hq => ⟨.init, rfl, (Seq.run.inj hq).1⟩⟩

/-- R192: a refusal leaves the state as it is. -/
theorem refused (hm : m.Knows inited .idle) {c : Response} (hc : c ≠ .ok) (hnoInit : decode q ≠ .request .init) :
    ((m.read policy (.req q)).read policy (.resp c)).Knows inited .idle := by
  have hne : q ≠ 0x200#10 := by
    rintro rfl
    exact hnoInit decode_init_word
  have hready : ((inited && q != 0x200#10) || (c == .ok && q == 0x200#10)) = inited := by
    rw [beq_false_of_ne hc, bne_iff_ne.2 hne, Bool.and_true, Bool.false_and, Bool.or_false]
  exact ⟨by simpa [Reader.read, hm.ready] using hready, fun _ => rfl, nofun⟩

/-- R192: `UNINIT` is entered by a failed bus write under `propagate`. -/
theorem failed (m : Reader) (a : BusAddr) (w : Byte) :
    ((m.read .propagate (.bus a w .fail)).read .propagate (.resp .busFail)).Knows false .idle :=
  ⟨rfl, fun _ => rfl, nofun⟩

/-- R192: `READY` is entered by the completion of `INIT`, and by no other. -/
theorem completed {op : Op} {i : Fin op.len} (hm : m.Knows inited (.run op i)) :
    (m.read policy (.resp .ok)).Knows (inited || decide (op = .init)) .idle := by
  obtain ⟨instr, hpending, rfl⟩ := hm.run op i rfl
  have hinit : (encode instr == 0x200#10) = decide (opOf instr = .init) := by
    rw [Bool.beq_eq_decide_eq, decide_eq_decide, encode_eq_init_word]
  exact ⟨by simp [Reader.read, hpending, hm.ready, hinit], fun _ => rfl, nofun⟩

/-- While an operation runs the reader waits for its response. -/
theorem next {op : Op} {i : Fin op.len} (hm : m.Knows inited (.run op i)) (j : Fin op.len) :
    m.Knows inited (.run op j) :=
  ⟨hm.ready, nofun, fun _ _ hq => (Seq.run.inj hq).1 ▸ hm.run op i rfl⟩

end Reader.Knows

/-- Settles O42: the reader's step follows the line of R25. -/
theorem stepKeepsInitedReadFromTheTrace : Obligations.StepKeepsInitedReadFromTheTrace := by
  intro s t hs h
  rw [followsTrace_iff] at hs ⊢
  rw [step_params h]
  cases stepLine_of_step h with
  | hang => exact hs
  | turn hseq => exact hs
  | wait hseq ms rest =>
    simp only [delay_trace, readTrace_append]
    exact hs
  | refuse hseq q rest f hf hnoInit =>
    rw [hseq] at hs
    have hc : f.code ≠ .ok := by rcases hf with rfl | rfl <;> simp [Failure.code]
    rw [raise_refusal_inited hf, raise_seq]
    simpa [readTrace_append] using hs.refused hc hnoInit
  | byte hseq q rest i b rs hdecode hop hinited =>
    rw [hseq] at hs
    simpa [readTrace_append] using hs.accepted hdecode hop (by decide)
  | init hseq q rest hdecode =>
    obtain rfl : 0x200#10 = q := encode_of_decode hdecode
    simpa [readTrace_append] using Reader.Knows.accepted_init _
  | setbl hseq q rest v hitems hdecode =>
    rw [hseq] at hs
    simpa [readTrace_append] using hs.accepted (op := .setbl) hdecode rfl (by decide)
  | fail op i n m en hseq hmicro hpolicy =>
    simpa [readTrace_append, hpolicy, Failure.code] using Reader.Knows.failed _ _ _
  | write op i n m en r hseq hmicro hgoes hlt =>
    rw [hseq] at hs
    simpa [readTrace_append, hlt, Reader.read_bus_of_goes hgoes] using hs.next _
  | finish op i n m en r hseq hmicro hgoes hlast =>
    rw [hseq] at hs
    simpa [readTrace_append, complete_inited, Reader.read_bus_of_goes hgoes] using hs.completed
  | delay op i d hseq hmicro hlt =>
    rw [hseq] at hs
    simpa [readTrace_append, hlt, Reader.read] using hs.next _

end Sys2Proof.Safety
end

section
/-! ## Nibbles in pairs (R36, R58, R111) -/

namespace Sys2Proof.Machine

open Sys2Proof.Safety

/-- R35: a known port with Enable low, or a word with Enable high, is no falling edge. -/
theorem latchOf_no_edge {p w : Byte} (h : enablePin p = false ∨ enablePin w = true) (r : BusResult) :
    latchOf (some p) w r = none := by
  unfold latchOf
  rcases h with h | h <;> simp [h]

/-- R35: a falling edge latches the nibble on the pins. -/
theorem latchOf_drop {p w : Byte} (hp : enablePin p = true) (hw : enablePin w = false) :
    latchOf (some p) w .ok = some (.pair (rsPin w) (dataPins w)) := by
  simp [latchOf, hp, hw]

namespace Display

variable {d : Display} {p w : Byte} (hlost : d.lost = false)
include hlost

/-- R35: a successful write without a falling edge does nothing to a display whose latch trace is known. -/
theorem observe_no_edge (h : enablePin p = false ∨ enablePin w = true) : d.observe (some p) w .ok = d := by
  rw [observe_ok _ _ _ (.inl hlost), hlost, latchOf_no_edge h]
  simp

/-- R35, R36: a successful drop makes it latch and pair the nibble on the pins. -/
theorem observe_drop (hp : enablePin p = true) (hw : enablePin w = false) :
    d.observe (some p) w .ok =
      { d.take (some (.pair (rsPin w) (dataPins w))) with
        latches := d.latches ++ ([.pair (rsPin w) (dataPins w)] : List LatchEvent) } := by
  rw [observe_ok _ _ _ (.inl hlost), hlost, latchOf_drop hp hw]
  rfl

end Display

/-- R36: the low half with the mode of the high half completes a byte. -/
theorem Display.take_low {d : Display} {rs : Bit} {hi : Nibble} (h : d.phase = .low rs hi) (n : Nibble) :
    d.take (some (.pair rs n)) = { d with phase := .high, received := d.received ++ [(rs, hi ++ n)] } := by
  simp [Display.take, h]

/-- R36: the high half of a byte is kept. -/
theorem Display.take_high {d : Display} (h : d.phase = .high) (rs : Bit) (n : Nibble) :
    d.take (some (.pair rs n)) = { d with phase := .low rs n } := by
  simp [Display.take, h]

/-- What `Paired` asks of state `READY`. -/
def ReadyInPhase (s : State) : Prop :=
  (∃ p, s.port = some p ∧ enablePin p = raisedBefore s.seq) ∧ s.display.lost = false ∧
  readyPhase s s.seq s.display.phase

/-- Outside `INIT` only state `READY` matters. -/
theorem paired_of_ready {t : State} (hseq : ∀ i, t.seq ≠ .run .init i) (h : t.inited = true → ReadyInPhase t) :
    Paired t :=
  fun _ => ⟨h, fun i hi => absurd hi (hseq i)⟩

/-- In an `INIT` the block is not `READY`, the display is in its initialisation, and the port is known from the first write
on. -/
theorem paired_of_init {t : State} {i : Fin Op.init.len} (hseq : t.seq = .run .init i) (hinited : t.inited = false)
    (hheld : ∃ held, t.display.phase = .initialising held)
    (hport : 0 < i.val → ∃ p, t.port = some p ∧ enablePin p = raisedBefore t.seq) : Paired t := by
  refine fun _ => ⟨fun h => absurd h (by simp [hinited]), fun j hj => ⟨hinited, hheld, fun hpos => hport ?_⟩⟩
  rw [hseq] at hj
  cases hj
  exact hpos

/-- R24: the micro-steps of `XFER` before which Enable is high are its two drops. -/
theorem raisedBefore_xfer : ∀ i : Fin Op.xfer.len,
    raisedBefore (.run .xfer i) = true ↔ i.val = 2 ∨ i.val = 5 := by
  decide

/-- A successful drop write makes a display whose latch trace is known pair the nibble and mode of the micro-step. -/
theorem observe_writeWord_drop {s : State} {p : Byte} (n : NibbleSource) (m : ModeSource)
    (hlost : s.display.lost = false) (hp : enablePin p = true) :
    s.display.observe (some p) (writeWord n m 0 s) .ok =
      { s.display.take (some (.pair (m.value s) (n.value s))) with
        latches := s.display.latches ++ ([.pair (m.value s) (n.value s)] : List LatchEvent) } := by
  rw [Display.observe_drop hlost hp (by simp [writeWord])]
  simp [writeWord]

section transfer
variable {s : State} {i : Fin Op.xfer.len} {n : NibbleSource} {m : ModeSource} {en : Bit} {p : Byte}
  (hmicro : microStep .xfer i = .write n m en) (hport : s.port = some p)
  (henable : enablePin p = raisedBefore (.run .xfer i)) (hlost : s.display.lost = false)
  (hphase : readyPhase s (.run .xfer i) s.display.phase)
include hmicro hport henable hlost hphase

/-- R36: from `READY` a successful write of a transfer brings the display to the phase that the next micro-step expects, and
the last one back to the high half. -/
theorem readyPhase_after_write :
    (∀ hlt, readyPhase s (.run .xfer ⟨i.val + 1, hlt⟩) (s.display.observe s.port (writeWord n m en s) .ok).phase) ∧
    (i.val + 1 = Op.xfer.len → (s.display.observe s.port (writeWord n m en s) .ok).phase = .high) := by
  have hstep : MicroStep.write n m en = _ := hmicro.symm.trans (microStep_xfer i)
  rw [hport]
  by_cases h2 : i.val = 2
  · obtain ⟨rfl, rfl, rfl⟩ : n = .drHigh ∧ m = .rsr ∧ en = 0 := by simpa [h2] using hstep
    have hhigh : s.display.phase = .high := by simpa [readyPhase, h2] using hphase
    rw [observe_writeWord_drop _ _ hlost (henable.trans ((raisedBefore_xfer i).2 (.inl h2))), Display.take_high hhigh]
    simp [readyPhase, h2, Op.len, ModeSource.value, NibbleSource.value]
  · by_cases h5 : i.val = 5
    · obtain ⟨rfl, rfl, rfl⟩ : n = .drLow ∧ m = .rsr ∧ en = 0 := by simpa [h5] using hstep
      have hlow : s.display.phase = .low s.rsr (highNibble s.dr) := by simpa [readyPhase, h5] using hphase
      rw [observe_writeWord_drop _ _ hlost (henable.trans ((raisedBefore_xfer i).2 (.inr h5))), ModeSource.value,
        Display.take_low hlow]
      exact ⟨fun hlt => absurd hlt (by rw [h5]; decide), fun _ => rfl⟩
    · have hp : enablePin p = false := by
        rw [henable, Bool.eq_false_iff, ne_eq, raisedBefore_xfer]
        omega
      rw [Display.observe_no_edge hlost (.inl hp)]
      have hhalf : i.val + 1 < 3 ↔ i.val < 3 := by omega
      exact ⟨fun _ => by simpa [readyPhase, hhalf] using hphase, fun hlast => by simp [Op.len] at hlast; omega⟩

end transfer

/-- A request that leaves the bus and the display alone keeps the block `READY`, if the display is in the phase in which the
sequencer goes on. -/
theorem ReadyInPhase.of_mem_eq {s t : State} (hs : ReadyInPhase s) (hseq : s.seq = .idle) (hmem : t.mem = s.mem)
    (hparams : t.params = s.params) (hdisplay : t.display = s.display) (hraised : raisedBefore t.seq = false)
    (hphase : readyPhase t t.seq .high) : ReadyInPhase t := by
  obtain ⟨⟨p, hport, henable⟩, hlost, hhigh⟩ := hs
  rw [hseq] at henable hhigh
  refine ⟨⟨p, (port_congr hmem hparams).trans hport, henable.trans hraised.symm⟩, hdisplay ▸ hlost, ?_⟩
  rw [hdisplay, show s.display.phase = .high from hhigh]
  exact hphase

/-- After a successful bus write the port is known, with Enable as the write had it. -/
theorem port_after_write {s t : State} {n : NibbleSource} {m : ModeSource} {en : Bit}
    (hmem : t.mem = (busWrite (writeWord n m en s) .ok s).mem) (hparams : t.params = s.params)
    (hraised : raisedBefore t.seq = (en == 1)) : ∃ p, t.port = some p ∧ enablePin p = raisedBefore t.seq := by
  refine ⟨writeWord n m en s, ?_, by rw [hraised, writeWord, expanderWord_enable]⟩
  rw [port_congr (s := busWrite (writeWord n m en s) .ok s) hmem hparams, busWrite_port, portAfter]

section propagate
variable {s : State} (hpolicy : s.params.policy = .propagate) (hs : Paired s)
include hpolicy hs

section write
variable {op : Op} {i : Fin op.len} {n : NibbleSource} {m : ModeSource} {en : Bit} (hseq : s.seq = .run op i)
  (hmicro : microStep op i = .write n m en)
include hseq hmicro

/-- A successful write that does not end its operation keeps the pairs. -/
theorem paired_advance_busWrite (hlt : i.val + 1 < op.len) :
    Paired (advance op i (busWrite (writeWord n m en s) .ok s)) := by
  obtain ⟨hready, hinit⟩ := hs hpolicy
  have hraised : raisedBefore (advance op i (busWrite (writeWord n m en s) .ok s)).seq = (en == 1) := by
    rw [advance_seq_of_lt hlt, raisedBefore_succ, hmicro, MicroStep.raises]
  have hport := port_after_write (advance_mem _ _ _) (advance_params _ _ _) hraised
  cases op with
  | xfer =>
    refine paired_of_ready (by simp [hlt]) fun hinited => ?_
    obtain ⟨⟨p, hp, henable⟩, hlost, hphase⟩ := hready (by simpa [hlt] using hinited)
    rw [hseq] at henable hphase
    have hnext := (readyPhase_after_write hmicro hp henable hlost hphase).1 hlt
    exact ⟨hport, by simp [hlt, hlost], by simpa [hlt, readyPhase] using hnext⟩
  | init =>
    obtain ⟨hinited, hheld, -⟩ := hinit i hseq
    refine paired_of_init (advance_seq_of_lt hlt _) (by simp [hlt, hinited]) ?_ fun _ => hport
    rw [advance_display_of_lt hlt]
    exact (s.display.observe_ok_initialising _ _).2 hheld
  | setbl => exact absurd hlt (by simp [Op.len])

/-- A successful write that ends its operation leaves the display expecting a high half in state `READY`. -/
theorem paired_complete_busWrite (hlast : i.val + 1 = op.len) :
    Paired (complete op (busWrite (writeWord n m en s) .ok s)) := by
  obtain ⟨hready, hinit⟩ := hs hpolicy
  have hlow : (microStep op i).raises = false := raises_last op i hlast
  rw [hmicro, MicroStep.raises] at hlow
  have hport := port_after_write (complete_mem op (busWrite (writeWord n m en s) .ok s)) (complete_params _ _)
    (by rw [complete_seq, hlow, raisedBefore])
  refine paired_of_ready (by simp) fun hinited => ?_
  cases op with
  | xfer =>
    obtain ⟨⟨p, hp, henable⟩, hlost, hphase⟩ := hready hinited
    rw [hseq] at henable hphase
    exact ⟨hport, by simp [hlost], (readyPhase_after_write hmicro hp henable hlost hphase).2 hlast⟩
  | init =>
    obtain ⟨-, hheld, -⟩ := hinit i hseq
    obtain ⟨held, hheld⟩ := (s.display.observe_ok_initialising s.port (writeWord n m en s)).2 hheld
    refine ⟨hport, ?_, ?_⟩ <;> simp [Display.endInit_initialising _ hheld, readyPhase]
  | setbl =>
    obtain ⟨⟨p, hp, henable⟩, hlost, hphase⟩ := hready hinited
    rw [hseq] at henable hphase
    have hdisplay : s.display.observe s.port (writeWord n m en s) .ok = s.display := by
      rw [hp]
      exact Display.observe_no_edge hlost (.inl henable)
    exact ⟨hport, by simp [hlost], (congrArg Display.phase hdisplay).trans hphase⟩

end write

/-- R58: under `propagate` every step keeps the pairs. -/
theorem step_keeps_paired {t : State} (h : step s = .next t) : Paired t := by
  obtain ⟨(hready : s.inited = true → ReadyInPhase s), hinit⟩ := hs hpolicy
  cases stepLine_of_step h with
  | hang => exact hs
  | turn hseq => exact hs
  | wait hseq ms rest => exact hs
  | refuse hseq q rest f hf =>
    refine paired_of_ready (by simp) fun hinited => ?_
    rw [raise_refusal_inited hf] at hinited
    exact (hready hinited).of_mem_eq hseq (by simp) (by simp) (by simp) rfl rfl
  | byte hseq q rest i b rs hdecode hop hinited =>
    exact paired_of_ready (by simp) fun _ => (hready hinited).of_mem_eq hseq rfl rfl rfl rfl (by simp [readyPhase])
  | init hseq q rest =>
    exact paired_of_init (start_seq _ _) rfl ⟨[], rfl⟩ (by simp)
  | setbl hseq q rest v =>
    exact paired_of_ready (by simp) fun hi => (hready hi).of_mem_eq hseq rfl rfl rfl rfl (by simp [readyPhase])
  | fail op i n m en => exact paired_of_ready (by simp) (by simp)
  | write op i n m en r hseq hmicro hgoes hlt =>
    obtain rfl : r = .ok := by simpa [hpolicy] using hgoes
    exact paired_advance_busWrite hpolicy hs hseq hmicro hlt
  | finish op i n m en r hseq hmicro hgoes hlast =>
    obtain rfl : r = .ok := by simpa [hpolicy] using hgoes
    exact paired_complete_busWrite hpolicy hs hseq hmicro hlast
  | delay op i d hseq hmicro hlt =>
    obtain ⟨rfl, hpos, hlow⟩ := isDelay_init op i (by rw [hmicro, MicroStep.isDelay])
    obtain ⟨hinited, hheld, hport⟩ := hinit i hseq
    refine paired_of_init (advance_seq_of_lt hlt _) (by simp [hlt, hinited]) (by simpa [hlt] using hheld) fun _ => ?_
    obtain ⟨p, hp, henable⟩ := hport hpos
    refine ⟨p, (port_congr (advance_mem _ _ _) (advance_params _ _ _)).trans hp, ?_⟩
    rw [henable, hseq, hlow, advance_seq_of_lt hlt, raisedBefore_succ, hmicro, MicroStep.raises]

end propagate

/-- Settles O43: under `propagate` only the writes of a transfer move the display's phase in state `READY`, and `INIT` ends
in that state only if none of its writes failed. -/
theorem stepKeepsNibblesPaired : Obligations.StepKeepsNibblesPaired := by
  intro s t hs h hpolicy
  have hpolicy' : s.params.policy = .propagate := by rw [← step_params h, hpolicy]
  exact step_keeps_paired hpolicy' hs h hpolicy

end Sys2Proof.Machine
end

section
/-! ## The byte of a completed transfer (R111, R112) -/

namespace Sys2Proof.Machine

open Sys2Proof.Safety

/-- R25: a successful bus write is performed and the operation moves on or completes. -/
theorem step_write_ok {s : State} {op : Op} {i : Fin op.len} {n : NibbleSource} {m : ModeSource} {en : Bit}
    (hmicro : microStep op i = .write n m en) (hhang : s.env.hangAfter = none) (hok : s.answer 0 = .ok) :
    step { s with seq := .run op i } = .next (advance op i (busWrite (writeWord n m en s) .ok s)) := by
  have hhung : ({ s with seq := .run op i } : State).hung = false := by simp [State.hung, hhang]
  have hok' : ({ s with seq := .run op i } : State).answer 0 = .ok := hok
  rw [step_run rfl, runMicroStep, if_neg (by simp [hhung]), hmicro]
  simp only [hok', afterWrite]
  rfl

/-- `NibblePulse(n, m)` (R83) whose three writes succeed, apart from the sequencer. -/
def pulse (n : NibbleSource) (m : ModeSource) (s : State) : State :=
  busWrite (writeWord n m 0 s) .ok (busWrite (writeWord n m 1 s) .ok (busWrite (writeWord n m 0 s) .ok s))

section pulse
variable (n : NibbleSource) (m : ModeSource) {s : State}

theorem pulse_hangAfter (h : s.env.hangAfter = none) : (pulse n m s).env.hangAfter = none :=
  wrote_hangAfter (wrote_hangAfter (wrote_hangAfter h))

/-- A pulse uses three of the environment's answers. -/
theorem pulse_answer (k : Nat) : (pulse n m s).answer k = s.answer (k + 3) := by
  unfold pulse
  rw [answer_wrote rfl, answer_wrote rfl, answer_wrote rfl]

/-- R83: a pulse ends with Enable low. -/
theorem pulse_port : ∃ p, (pulse n m s).port = some p ∧ enablePin p = false :=
  ⟨writeWord n m 0 s, busWrite_port _ _ _, by simp [writeWord]⟩

/-- R35, R111: a pulse latches its nibble once. -/
theorem pulse_display {p : Byte} (hport : s.port = some p) (hp : enablePin p = false) (hlost : s.display.lost = false) :
    (pulse n m s).display =
      { s.display.take (some (.pair (m.value s) (n.value s))) with
        latches := s.display.latches ++ ([.pair (m.value s) (n.value s)] : List LatchEvent) } := by
  simp only [pulse, busWrite_display, busWrite_port, portAfter]
  rw [hport, Display.observe_no_edge hlost (.inl hp), Display.observe_no_edge hlost (.inr (by simp [writeWord]))]
  exact observe_writeWord_drop n m hlost (by simp [writeWord])

/-- R83: the three micro-steps of a pulse, all of whose writes succeed. -/
theorem runSteps_pulse {op : Op} {i : Nat} (hlt : i + 2 < op.len)
    (hsetup : microStep op ⟨i, by omega⟩ = .write n m 0) (hraise : microStep op ⟨i + 1, by omega⟩ = .write n m 1)
    (hdrop : microStep op ⟨i + 2, hlt⟩ = .write n m 0) (hhang : s.env.hangAfter = none)
    (hok : ∀ k, k < 3 → s.answer k = .ok) :
    runSteps 3 { s with seq := .run op ⟨i, by omega⟩ } = .next (advance op ⟨i + 2, hlt⟩ (pulse n m s)) := by
  rw [runSteps_succ (step_write_ok hsetup hhang (hok 0 (by decide))), advance_of_lt (by simp; omega),
    runSteps_succ (step_write_ok hraise (by simp [hhang]) ((answer_wrote rfl 0).trans (hok 1 (by decide)))),
    advance_of_lt (by simp; omega),
    runSteps_succ (step_write_ok hdrop (by simp [hhang])
      ((answer_wrote rfl 0).trans ((answer_wrote rfl 1).trans (hok 2 (by decide)))))]
  rfl

end pulse

section transfer
variable {s : State}

/-- R112: the six micro-steps of a transfer, all of whose writes succeed. -/
theorem runSteps_transfer (hseq : s.seq = .run .xfer ⟨0, Op.len_pos .xfer⟩) (hhang : s.env.hangAfter = none)
    (hok : ∀ k, k < 6 → s.answer k = .ok) :
    runSteps 6 s = .next (complete .xfer (pulse .drLow .rsr (pulse .drHigh .rsr s))) := by
  have hhigh : runSteps 3 { s with seq := .run .xfer ⟨0, Op.len_pos .xfer⟩ } =
      .next (advance .xfer ⟨2, by decide⟩ (pulse .drHigh .rsr s)) :=
    runSteps_pulse .drHigh .rsr (by decide) rfl rfl rfl hhang fun k hk => hok k (by omega)
  have hlow : runSteps 3 { pulse .drHigh .rsr s with seq := .run .xfer ⟨3, by decide⟩ } =
      .next (advance .xfer ⟨5, by decide⟩ (pulse .drLow .rsr (pulse .drHigh .rsr s))) :=
    runSteps_pulse .drLow .rsr (by decide) rfl rfl rfl (pulse_hangAfter _ _ hhang) fun k hk =>
      (pulse_answer _ _ k).trans (hok _ (by omega))
  rw [← hseq, advance_of_lt (by decide)] at hhigh
  exact (runSteps_add hhigh 3).trans hlow

/-- R36, R111: the high half and the low half make the byte. -/
theorem transfer_display {p : Byte} (hport : s.port = some p) (hp : enablePin p = false)
    (hphase : s.display.phase = .high) (hlost : s.display.lost = false) :
    (pulse .drLow .rsr (pulse .drHigh .rsr s)).display = { s.display with
      phase := .high
      latches := s.display.latches ++
        ([.pair s.rsr (highNibble s.dr), .pair s.rsr (lowNibble s.dr)] : List LatchEvent)
      received := s.display.received ++ [(s.rsr, s.dr)] } := by
  obtain ⟨p', hport', hp'⟩ := pulse_port NibbleSource.drHigh ModeSource.rsr (s := s)
  have hhigh : (pulse .drHigh .rsr s).display = { s.display with
      phase := .low s.rsr (highNibble s.dr)
      latches := s.display.latches ++ ([.pair s.rsr (highNibble s.dr)] : List LatchEvent) } := by
    rw [pulse_display _ _ hport hp hlost, Display.take_high hphase]
    rfl
  have hlow := pulse_display .drLow .rsr hport' hp' (by rw [hhigh]; exact hlost)
  have hmode : ModeSource.rsr.value (pulse .drHigh .rsr s) = s.rsr := rfl
  have hnibble : NibbleSource.drLow.value (pulse .drHigh .rsr s) = lowNibble s.dr := rfl
  rw [hlow, hmode, hnibble, Display.take_low (by rw [hhigh]), hhigh]
  simp [highNibble_append_lowNibble]

end transfer

/-- Settles O44: a transfer is two pulses, the high half and then the low half, each of which latches its nibble. -/
theorem completedTransferDeliversItsByte : Obligations.CompletedTransferDeliversItsByte := by
  intro s p hseq hhang hok hport hp hphase hlost
  refine ⟨_, runSteps_transfer hseq hhang hok, ?_⟩
  rw [complete_xfer_display, transfer_display hport hp hphase hlost]
  exact ⟨rfl, rfl, rfl⟩

end Sys2Proof.Machine
end

section
/-! ## What a step can and cannot change -/

namespace Sys2Proof.Machine

open Sys2Proof.Safety

/-- What the acceptance of a request can do (R25). -/
theorem exec_cases {i : Instr} {s t : State} (h : exec i s = .next t) :
    (∃ b rs, (i = .wrcmd b ∨ i = .wrdata b) ∧ s.inited = true ∧ t = start .xfer (latchByte b rs s)) ∨
    (∃ b, (i = .wrcmd b ∨ i = .wrdata b) ∧ s.inited = false ∧ t = raise .uninit s) ∨
    (i = .init ∧ t = start .init (beginInit s.clearInited)) ∨
    (∃ v, i = .setbl v ∧ t = start .setbl (setBacklight v s)) := by
  cases i with
  | wrcmd b =>
    obtain rfl : acceptByte 0 b s = t := Host.Outcome.next.inj h
    rcases acceptByte_cases 0 b s with ⟨hinited, e⟩ | ⟨hinited, e⟩
    · exact .inl ⟨b, 0, .inl rfl, hinited, e⟩
    · exact .inr (.inl ⟨b, .inl rfl, hinited, e⟩)
  | wrdata b =>
    obtain rfl : acceptByte 1 b s = t := Host.Outcome.next.inj h
    rcases acceptByte_cases 1 b s with ⟨hinited, e⟩ | ⟨hinited, e⟩
    · exact .inl ⟨b, 1, .inr rfl, hinited, e⟩
    · exact .inr (.inl ⟨b, .inr rfl, hinited, e⟩)
  | init => exact .inr (.inr (.inl ⟨rfl, (Host.Outcome.next.inj h).symm⟩))
  | setbl v => exact .inr (.inr (.inr ⟨v, rfl, (Host.Outcome.next.inj h).symm⟩))

/-- R192: a byte request executes exactly in state `READY`. -/
theorem executes_byte {i : Instr} {b : Byte} (hi : i = .wrcmd b ∨ i = .wrdata b) (s : State) :
    s.operatingState.executes i = s.inited := by
  rcases hi with rfl | rfl <;> cases hinited : s.inited <;> simp [State.operatingState, OperatingState.executes, hinited]

/-- R192: the other requests execute in both states. -/
theorem executes_init (s : State) : s.operatingState.executes .init = true := by
  cases s.operatingState <;> rfl

theorem executes_setbl (v : Bit) (s : State) : s.operatingState.executes (.setbl v) = true := by
  cases s.operatingState <;> rfl

/-- Settles O20, by the four things an acceptance can do. -/
theorem acceptanceFrame : Obligations.AcceptanceFrame := by
  intro i s t h
  rcases exec_cases h with ⟨b, rs, hi, hinited, rfl⟩ | ⟨b, hi, hinited, rfl⟩ | ⟨rfl, rfl⟩ | ⟨v, rfl, rfl⟩
  · have hbyte : ¬ ∀ b, i ≠ .wrcmd b ∧ i ≠ .wrdata b := fun hno => hi.elim (hno b).1 (hno b).2
    have hexec : s.operatingState.executes i = true := (executes_byte hi s).trans hinited
    refine ⟨rfl, rfl, fun a => rfl, rfl, rfl, fun hno => absurd hno hbyte, fun _ => rfl, fun _ => ⟨rfl, rfl⟩,
      fun _ => ⟨rfl, rfl⟩, fun hno => ?_⟩
    simp [hexec] at hno
  · have hexec : s.operatingState.executes i = false := (executes_byte hi s).trans hinited
    refine ⟨rfl, rfl, fun a => rfl, rfl, rfl, fun _ => ⟨rfl, rfl⟩, fun _ => rfl, fun _ => ⟨rfl, rfl⟩,
      fun hyes => ?_, fun _ => ⟨rfl, rfl, rfl, rfl⟩⟩
    simp [hexec] at hyes
  · refine ⟨rfl, rfl, fun a => rfl, rfl, rfl, fun _ => ⟨rfl, rfl⟩, fun _ => rfl, fun hno => absurd rfl hno,
      fun _ => ⟨rfl, rfl⟩, fun hno => ?_⟩
    simp [executes_init] at hno
  · refine ⟨rfl, rfl, fun a => rfl, rfl, rfl, fun _ => ⟨rfl, rfl⟩, fun hno => absurd rfl (hno v),
      fun _ => ⟨rfl, rfl⟩, fun _ => ⟨rfl, rfl⟩, fun hno => ?_⟩
    simp [executes_setbl] at hno

/-- The last micro-step of `INIT`. -/
theorem eq_last_init {i : Fin Op.init.len} (h : i.val + 1 = Op.init.len) : i = ⟨13, by decide⟩ :=
  Fin.ext (Nat.succ.inj h)

/-- Settles O30, line by line of R25. -/
theorem initedChangesOnlyAsItsRuleSays : Obligations.InitedChangesOnlyAsItsRuleSays := by
  intro s t h hne
  cases stepLine_of_step h with
  | init hseq q rest hdecode =>
    obtain rfl : 0x200#10 = q := encode_of_decode hdecode
    exact .inr (.inl ⟨rfl, hseq, rfl, rfl⟩)
  | refuse hseq q rest f hf => exact absurd (raise_refusal_inited hf _) hne
  | fail op i n m en hseq hmicro hpolicy =>
    exact .inr (.inr ⟨rfl, hpolicy, rfl, writeWord n m en s, by simp [Emits, Failure.code]⟩)
  | write op i n m en r hseq hmicro hgoes hlt => simp [hlt] at hne
  | finish op i n m en r hseq hmicro hgoes hlast =>
    have hinit : op = .init := by
      by_contra hop
      simp [complete_inited, hop] at hne
    subst hinit
    exact .inl ⟨rfl, eq_last_init hlast ▸ hseq, rfl, writeWord n m en s, r, by simp [Emits]⟩
  | delay op i d hseq hmicro hlt => simp [hlt] at hne
  | _ => simp at hne

/-- Settles O32, by what a step can write. -/
theorem portFollowsTheBusWrites : Obligations.PortFollowsTheBusWrites := by
  refine ⟨construct_port, fun s t h => ?_⟩
  rcases step_bus_cases h with ⟨hmem, hquiet⟩ | ⟨n, m, en, r, es, hmem, hemits, -⟩
  · exact ⟨fun a _ => portAt_congr hmem a, .inl ⟨port_congr hmem (step_params h), hquiet⟩⟩
  · have hparams : t.params = (busWrite (writeWord n m en s) r s).params :=
      (step_params h).trans (busWrite_params _ _ _).symm
    have hport : t.port = portAfter (writeWord n m en s) r := (port_congr hmem hparams).trans (busWrite_port _ _ _)
    refine ⟨fun a ha => (portAt_congr hmem a).trans (busWrite_portAt _ _ _ ha), .inr ?_⟩
    cases r with
    | ok => exact .inl ⟨_, es, hemits, hport⟩
    | fail => exact .inr ⟨_, es, hemits, hport⟩

/-- Settles O33: of all lines of R25 only the acceptance of a `SETBL` writes `BL`. -/
theorem backlightChangesOnlyBySetbl : Obligations.BacklightChangesOnlyBySetbl := by
  intro s t h hne
  cases stepLine_of_step h with
  | setbl hseq q rest v hitems hdecode =>
    obtain rfl := encode_of_decode hdecode
    exact ⟨hseq, rest, hitems, rfl, rfl⟩
  | _ => simp at hne

/-- Settles O34: no line of R25 touches the parameters, and every bus event of one names `ADDR`. -/
theorem parametersNeverChange : Obligations.ParametersNeverChange := by
  refine ⟨fun a p c => rfl, fun s t h => ⟨step_params h, addr_congr (step_params h), fun a w r hmem => ?_⟩⟩
  rcases step_bus_event h hmem with hold | ⟨haddr, -⟩
  · exact .inl hold
  · exact .inr haddr

/-- Settles O38, line by line of R25. -/
theorem stepAppendsOneLine : Obligations.StepAppendsOneLine := by
  intro s t h
  simp only [busy_eq_true, busy_eq_false]
  cases stepLine_of_step h with
  | hang => exact .inl rfl
  | turn hseq => exact .inl rfl
  | wait hseq ms rest => exact .inr (.inl ⟨ms, rfl⟩)
  | refuse hseq q rest f hf =>
    refine .inr (.inr (.inr (.inl ⟨q, hseq, rfl, ?_⟩)))
    rcases hf with rfl | rfl <;> simp [Emits, Failure.code]
  | byte hseq q rest => exact .inr (.inr (.inl ⟨q, hseq, by simp, rfl⟩))
  | init hseq q rest => exact .inr (.inr (.inl ⟨q, hseq, by simp, rfl⟩))
  | setbl hseq q rest => exact .inr (.inr (.inl ⟨q, hseq, by simp, rfl⟩))
  | fail op i n m en hseq =>
    exact .inr (.inr (.inr (.inr (.inr
      ⟨writeWord n m en s, .fail, by simp [hseq], rfl, .inr (by simp [Emits, Failure.code])⟩))))
  | write op i n m en r hseq hmicro hgoes hlt =>
    exact .inr (.inr (.inr (.inr (.inl
      ⟨writeWord n m en s, r, by simp [hseq], by simp [hlt], by simp [Emits, hlt]⟩))))
  | finish op i n m en r hseq =>
    exact .inr (.inr (.inr (.inr (.inr
      ⟨writeWord n m en s, r, by simp [hseq], complete_seq _ _, .inl (by simp [Emits])⟩))))
  | delay op i d hseq hmicro hlt => exact .inr (.inl ⟨d.value s, by simp [Emits, hlt]⟩)

/-- Settles O39, by the five forms of a micro-step. -/
theorem microStepFrame : Obligations.MicroStepFrame := by
  intro op i s t hseq h
  have hother : ∀ a, a ≠ s.addr → t.portAt a = s.portAt a := (portFollowsTheBusWrites.2 s t h).1
  rw [step_run hseq, Host.Outcome.next.injEq] at h
  subst h
  rcases runMicroStep_next op i s with e | ⟨w, ⟨n, m, en, hmicro, -⟩, -, -, e⟩ |
    ⟨w, r, ⟨n, m, en, hmicro, -⟩, -, -, hlt, e⟩ | ⟨w, r, ⟨n, m, en, hmicro, -⟩, -, -, -, e⟩ |
    ⟨d, hlt, -, e⟩ <;> rw [e] at hother ⊢
  · simp
  · exact ⟨by simp, by simp, by simp, by simp, hother, by simp [hmicro], by simp [busy_eq_true], .inr rfl⟩
  · exact ⟨rfl, rfl, rfl, rfl, hother, by simp [hmicro], fun _ => ⟨rfl, rfl⟩, .inl rfl⟩
  · exact ⟨by simp, by simp, by simp, by simp, hother, by simp [hmicro], by simp [busy_eq_true], .inl (by simp)⟩
  · exact ⟨rfl, rfl, rfl, rfl, hother, fun _ _ => ⟨rfl, rfl, fun _ => rfl⟩, fun _ => ⟨rfl, rfl⟩, .inl rfl⟩

end Sys2Proof.Machine
end

section
/-! ## The lost latch trace (U6, R36) -/

namespace Sys2Proof.Machine

open Sys2Proof.Safety

/-- What a step can do to the display, and the bus event that goes with it. -/
theorem step_display_cases {s t : State} (h : step s = .next t) :
    (t.display = s.display ∧ ∀ w es, ¬ Emits s t (.bus s.addr w .fail :: es)) ∨
    (t.display = s.display.beginInit ∧ s.seq = .idle ∧ t.seq = .run .init ⟨0, Op.len_pos .init⟩ ∧
      ∀ w es, ¬ Emits s t (.bus s.addr w .fail :: es)) ∨
    (∃ w r es, t.display = s.display.observe s.port w r ∧ Emits s t (.bus s.addr w r :: es)) ∨
    (∃ w r, t.display = (s.display.observe s.port w r).endInit ∧ s.seq = .run .init ⟨13, by decide⟩ ∧
      t.inited = true ∧ Emits s t [.bus s.addr w r, .resp .ok]) := by
  cases stepLine_of_step h with
  | hang => exact .inl ⟨rfl, by simp [Emits]⟩
  | turn hseq => exact .inl ⟨rfl, by simp [Emits]⟩
  | wait hseq ms rest => exact .inl ⟨rfl, by simp [Emits]⟩
  | refuse hseq q rest f => exact .inl ⟨by simp, by simp [Emits]⟩
  | byte hseq q rest => exact .inl ⟨rfl, by simp [Emits]⟩
  | init hseq q rest => exact .inr (.inl ⟨rfl, hseq, rfl, by simp [Emits]⟩)
  | setbl hseq q rest => exact .inl ⟨rfl, by simp [Emits]⟩
  | fail op i n m en =>
    exact .inr (.inr (.inl ⟨writeWord n m en s, .fail, [.resp .busFail], by simp [Emits, Failure.code]⟩))
  | write op i n m en r hseq hmicro hgoes hlt =>
    exact .inr (.inr (.inl ⟨writeWord n m en s, r, [], by simp [Emits, hlt]⟩))
  | finish op i n m en r hseq hmicro hgoes hlast =>
    rcases complete_display_cases op (busWrite (writeWord n m en s) r s) with ⟨rfl, e⟩ | ⟨-, e⟩
    · exact .inr (.inr (.inr ⟨writeWord n m en s, r, e, eq_last_init hlast ▸ hseq, rfl, by simp [Emits]⟩))
    · exact .inr (.inr (.inl ⟨writeWord n m en s, r, [.resp .ok], e, by simp [Emits]⟩))
  | delay op i d hseq hmicro hlt => exact .inl ⟨by simp [hlt], by simp [Emits, hlt]⟩

/-- Of two accounts of the first event of a step both name the same result. -/
theorem bus_result_unique {s t : State} {a : BusAddr} {w w' : Byte} {r r' : BusResult} {es es' : List Event}
    (h : Emits s t (.bus a w r :: es)) (h' : Emits s t (.bus a w' r' :: es')) : r = r' := by
  have e := List.append_cancel_left (h.symm.trans h')
  simp only [List.cons.injEq, Event.bus.injEq] at e
  tauto

namespace Display

/-- The completion of an `INIT` finds the latch trace again, or a write of it had failed. -/
theorem endInit_cases (d : Display) :
    (∃ held, d.phase = .initialising held ∧
      d.endInit = { d with phase := .high, lost := false, latches := d.latches ++ held }) ∨
    ((∀ held, d.phase ≠ .initialising held) ∧ d.endInit = { d with phase := .unknown }) := by
  by_cases h : ∃ held, d.phase = .initialising held
  · obtain ⟨held, h⟩ := h
    exact .inl ⟨held, h, d.endInit_initialising h⟩
  · rw [not_exists] at h
    exact .inr ⟨h, d.endInit_other h⟩

/-- A display whose latch trace is lost after the completion of an `INIT` only forgot its phase. -/
theorem endInit_of_lost {d : Display} (h : d.endInit.lost = true) : d.endInit = { d with phase := .unknown } := by
  rcases d.endInit_cases with ⟨held, -, e⟩ | ⟨-, e⟩
  · simp [e] at h
  · exact e

/-- A bus write to a display whose latch trace is lost, or is lost by it, adds nothing definite. -/
theorem observe_lost_latches (d : Display) (before : Option Byte) (w : Byte) (r : BusResult)
    (h : (d.observe before w r).lost = true) :
    ∃ es, (d.observe before w r).latches = d.latches ++ es ∧ ∀ e ∈ es, e = .uncertain := by
  cases r with
  | ok => exact d.observe_ok_lost_latches before w (by simpa using h)
  | fail =>
    refine ⟨d.held.map LatchEvent.weaken ++ (latchOf before w .fail).toList, by simp [observe_fail], fun e he => ?_⟩
    rcases List.mem_append.1 he with he | he
    · obtain ⟨e', -, rfl⟩ := List.mem_map.1 he
      exact weaken_eq e'
    · exact latchOf_fail he

end Display

/-- A failed write makes the latch trace lost and the phase unknown. -/
theorem lost_of_failed_write {s t : State} (h : step s = .next t) {w : Byte} {es : List Event}
    (hfail : Emits s t (.bus s.addr w .fail :: es)) : t.display.lost = true ∧ t.display.phase = .unknown := by
  rcases step_display_cases h with ⟨-, hno⟩ | ⟨-, -, -, hno⟩ | ⟨w', r, es', e, hemits⟩ | ⟨w', r, e, -, -, hemits⟩
  · exact absurd hfail (hno w es)
  · exact absurd hfail (hno w es)
  · obtain rfl := bus_result_unique hemits hfail
    simp [e]
  · obtain rfl := bus_result_unique hemits hfail
    rw [e, Display.endInit_other _ (by simp)]
    simp

/-- No other step loses the latch trace. -/
theorem failed_write_of_lost {s t : State} (h : step s = .next t) (hs : s.display.lost = false)
    (ht : t.display.lost = true) : ∃ w es, Emits s t (.bus s.addr w .fail :: es) := by
  rcases step_display_cases h with ⟨e, -⟩ | ⟨e, -, -, -⟩ | ⟨w, r, es, e, hemits⟩ | ⟨w, r, e, -, -, hemits⟩
  · simp [e, hs] at ht
  · simp [e, hs] at ht
  · cases r with
    | ok => simp [e, hs] at ht
    | fail => exact ⟨w, es, hemits⟩
  · cases r with
    | ok =>
      rw [e] at ht
      have hlost := congrArg Display.lost (Display.endInit_of_lost ht)
      simp [ht, hs] at hlost
    | fail => exact ⟨w, _, hemits⟩

/-- While the latch trace is lost a step adds only latches of which nothing is known. -/
theorem lost_latches_uncertain {s t : State} (h : step s = .next t) (ht : t.display.lost = true) :
    ∃ es, t.display.latches = s.display.latches ++ es ∧ ∀ e ∈ es, e = .uncertain := by
  rcases step_display_cases h with ⟨e, -⟩ | ⟨e, -, -, -⟩ | ⟨w, r, es, e, -⟩ | ⟨w, r, e, -, -, -⟩ <;> rw [e] at ht ⊢
  · exact ⟨[], by simp⟩
  · exact ⟨[], by simp⟩
  · exact Display.observe_lost_latches _ _ _ _ ht
  · have hkept := Display.endInit_of_lost ht
    rw [hkept] at ht ⊢
    exact Display.observe_lost_latches _ _ _ _ ht

/-- The latch trace is found again only by the completion of an `INIT` none of whose writes failed. -/
theorem found_by_completed_init {s t : State} (h : step s = .next t) (hs : s.display.lost = true)
    (ht : t.display.lost = false) :
    s.seq = .run .init ⟨13, by decide⟩ ∧ t.inited = true ∧ (∃ held, s.display.phase = .initialising held) ∧
    ∃ w, Emits s t [.bus s.addr w .ok, .resp .ok] := by
  rcases step_display_cases h with ⟨e, -⟩ | ⟨e, -, -, -⟩ | ⟨w, r, es, e, -⟩ | ⟨w, r, e, hseq, hinited, hemits⟩ <;>
    rw [e] at ht
  · simp [hs] at ht
  · simp [hs] at ht
  · cases r <;> simp [hs] at ht
  · rcases Display.endInit_cases (s.display.observe s.port w r) with ⟨held, hphase, -⟩ | ⟨-, e⟩
    · cases r with
      | ok => exact ⟨hseq, hinited, Display.initialising_of_observe hphase, w, hemits⟩
      | fail => simp at hphase
    · rw [e] at ht
      cases r <;> simp [hs] at ht

/-- A display is in an initialisation since an `INIT` was accepted. -/
theorem initialising_since_accepted {s t : State} (h : step s = .next t) {held : List LatchEvent}
    (ht : t.display.phase = .initialising held) :
    (s.seq = .idle ∧ t.seq = .run .init ⟨0, by decide⟩) ∨ ∃ held', s.display.phase = .initialising held' := by
  rcases step_display_cases h with ⟨e, -⟩ | ⟨-, hidle, hseq, -⟩ | ⟨w, r, es, e, -⟩ | ⟨w, r, e, -, -, -⟩
  · exact .inr ⟨held, e ▸ ht⟩
  · exact .inl ⟨hidle, hseq⟩
  · exact .inr (Display.initialising_of_observe (e ▸ ht))
  · exact absurd (e ▸ ht) (Display.endInit_phase_ne _ _)

/-- Settles O46, clause by clause. -/
theorem failedWriteMakesTheLatchTraceUnknown : Obligations.FailedWriteMakesTheLatchTraceUnknown :=
  fun _ _ h => ⟨fun _ _ => lost_of_failed_write h, failed_write_of_lost h, fun _ => lost_latches_uncertain h,
    found_by_completed_init h, fun _ => initialising_since_accepted h⟩

end Sys2Proof.Machine
end

section
/-! ## What a step does not read (R21, R22, R63) -/

namespace Sys2Proof.Machine

open Sys2Proof.Safety

section idle
variable {s : State} (hseq : s.seq = .idle)
include hseq

/-- R25: an idle block accepts the word at the head of the client's items. -/
theorem step_request {q : RequestWord} {rest : List ClientItem} (hitems : s.client.items = .request q :: rest) :
    step s = accept q rest s := by
  rw [step, hseq]
  simp only [idleStep, hitems]

theorem step_wait {ms : Nat} {rest : List ClientItem} (hitems : s.client.items = .wait ms :: rest) :
    step s = .next (clientWait ms rest s) := by
  rw [step, hseq]
  simp only [idleStep, hitems]

theorem step_turn (hitems : s.client.items = []) : step s = .next (clientTurn s) := by
  rw [step, hseq]
  simp only [idleStep, hitems]

end idle

/-- A client wait leaves the sequencer. -/
theorem clientWait_seq (ms : Nat) (rest : List ClientItem) (s : State) : (clientWait ms rest s).seq = s.seq := by
  unfold clientWait
  split <;> rfl

/-- `s` with another client. -/
def withClient (k : Client) (s : State) : State := { s with client := k }

section client
variable (k : Client) (s : State) (op : Op) (i : Fin op.len)

theorem advance_withClient : ∃ k', advance op i (withClient k s) = withClient k' (advance op i s) := by
  unfold advance
  split
  · exact ⟨k, rfl⟩
  · cases op <;> exact ⟨k, rfl⟩

theorem afterWrite_withClient (r : BusResult) :
    ∃ k', afterWrite op i r (withClient k s) = withClient k' (afterWrite op i r s) := by
  have hpolicy : (withClient k s).params.policy = s.params.policy := rfl
  unfold afterWrite
  rw [hpolicy]
  split
  · exact ⟨k.onResponse .busFail, rfl⟩
  · exact advance_withClient k s op i
  · exact advance_withClient k s op i

/-- R63: no micro-step reads the client. -/
theorem runMicroStep_withClient :
    ∃ k', runMicroStep op i (withClient k s) = withClient k' (runMicroStep op i s) := by
  have hhung : (withClient k s).hung = s.hung := rfl
  unfold runMicroStep
  rw [hhung]
  split
  · exact ⟨k, rfl⟩
  · split
    · next n m en _ => exact afterWrite_withClient k (busWrite (writeWord n m en s) (s.answer 0) s) op i (s.answer 0)
    · next d _ => exact advance_withClient k (delay (d.value s) s) op i

end client

theorem exists_run_of_busy {s : State} (h : s.busy = true) : ∃ op i, s.seq = .run op i := by
  cases hseq : s.seq with
  | idle => exact absurd hseq (busy_eq_true.1 h)
  | run op i => exact ⟨op, i, rfl⟩

/-- Settles O37: a busy block performs a micro-step. -/
theorem busyBlockIgnoresTheClient : Obligations.BusyBlockIgnoresTheClient := by
  intro s t k hbusy h
  obtain ⟨op, i, hseq⟩ := exists_run_of_busy hbusy
  obtain rfl : runMicroStep op i s = t := Host.Outcome.next.inj ((step_run hseq).symm.trans h)
  have hstep : step (withClient k s) = .next (runMicroStep op i (withClient k s)) := step_run hseq
  obtain ⟨k', e⟩ := runMicroStep_withClient k s op i
  rw [e] at hstep
  exact ⟨_, hstep, rfl⟩

/-- `s` with other values in `DR` and `RSR`. -/
def withLatches (d : Byte) (m : Bit) (s : State) : State := { s with dr := d, rsr := m }

/-- The block is not in the middle of a transfer. -/
def OutsideTransfer (s : State) : Prop := ∀ i, s.seq ≠ .run .xfer i

/-- R24: the micro-step reads `DR` or `RSR`. -/
def MicroStep.readsLatches : MicroStep → Bool
  | .write (.const _) .zero _ => false
  | .write _ _ _ => true
  | .delay _ => false

/-- R24: only the micro-steps of `XFER` read them. -/
theorem readsLatches_eq (op : Op) : ∀ i : Fin op.len, (microStep op i).readsLatches = decide (op = .xfer) := by
  cases op <;> decide

section latches
variable (d : Byte) (m : Bit) (s : State)

theorem writeWord_withLatches {n : NibbleSource} {rs : ModeSource} {en : Bit}
    (h : (MicroStep.write n rs en).readsLatches = false) :
    writeWord n rs en (withLatches d m s) = writeWord n rs en s := by
  cases n with
  | drHigh => simp [MicroStep.readsLatches] at h
  | drLow => simp [MicroStep.readsLatches] at h
  | const c =>
    cases rs with
    | rsr => simp [MicroStep.readsLatches] at h
    | zero => rfl

theorem advance_withLatches (op : Op) (i : Fin op.len) :
    advance op i (withLatches d m s) = withLatches d m (advance op i s) := by
  unfold advance
  split
  · rfl
  · cases op <;> rfl

theorem afterWrite_withLatches (op : Op) (i : Fin op.len) (r : BusResult) :
    afterWrite op i r (withLatches d m s) = withLatches d m (afterWrite op i r s) := by
  have hpolicy : (withLatches d m s).params.policy = s.params.policy := rfl
  unfold afterWrite
  rw [hpolicy]
  split
  · rfl
  · exact advance_withLatches d m s op i
  · exact advance_withLatches d m s op i

/-- R21, R22: a micro-step outside a transfer does not read the latches. -/
theorem runMicroStep_withLatches {op : Op} (hop : op ≠ .xfer) (i : Fin op.len) :
    runMicroStep op i (withLatches d m s) = withLatches d m (runMicroStep op i s) := by
  have hhung : (withLatches d m s).hung = s.hung := rfl
  have hreads : (microStep op i).readsLatches = false := by simp [readsLatches_eq, hop]
  unfold runMicroStep
  rw [hhung]
  split
  · rfl
  · split
    · next n rs en hmicro =>
      rw [hmicro] at hreads
      rw [writeWord_withLatches d m s hreads]
      exact afterWrite_withLatches d m (busWrite (writeWord n rs en s) (s.answer 0) s) op i (s.answer 0)
    · next t _ => exact advance_withLatches d m (delay (t.value s) s) op i

/-- What other values in `DR` and `RSR` make of a step to `t`: nothing, or they are still there and not yet read. -/
def LatchesUnread (t : State) (o : Host.Outcome State Fault Refusal) : Prop :=
  o = .next t ∨ (OutsideTransfer t ∧ o = .next (withLatches d m t))

/-- R21, R22: the acceptance of a byte writes the latches before the transfer reads them; a refusal leaves them. -/
theorem acceptByte_withLatches (rs : Bit) (b : Byte) :
    LatchesUnread d m (acceptByte rs b s) (.next (acceptByte rs b (withLatches d m s))) := by
  have hinited : (withLatches d m s).inited = s.inited := rfl
  unfold acceptByte
  rw [hinited]
  split
  · exact .inl rfl
  · exact .inr ⟨nofun, rfl⟩

/-- No acceptance reads the latches. -/
theorem exec_withLatches {t : State} {i : Instr} (h : exec i s = .next t) :
    LatchesUnread d m t (exec i (withLatches d m s)) := by
  cases i with
  | wrcmd b =>
    obtain rfl : acceptByte 0 b s = t := Host.Outcome.next.inj h
    exact acceptByte_withLatches d m s 0 b
  | wrdata b =>
    obtain rfl : acceptByte 1 b s = t := Host.Outcome.next.inj h
    exact acceptByte_withLatches d m s 1 b
  | init =>
    cases h
    exact .inr ⟨nofun, rfl⟩
  | setbl v =>
    cases h
    exact .inr ⟨nofun, rfl⟩

theorem clientWait_withLatches (ms : Nat) (rest : List ClientItem) :
    clientWait ms rest (withLatches d m s) = withLatches d m (clientWait ms rest s) := by
  have hhung : (withLatches d m s).hung = s.hung := rfl
  unfold clientWait
  rw [hhung]
  split <;> rfl

/-- An operation other than a transfer starts none. -/
theorem outsideTransfer_runMicroStep {s : State} {op : Op} {i : Fin op.len} (hseq : s.seq = .run op i) (hop : op ≠ .xfer) :
    OutsideTransfer (runMicroStep op i s) := by
  intro j
  rcases runMicroStep_next op i s with e | ⟨w, -, -, -, e⟩ | ⟨w, r, -, -, -, hlt, e⟩ | ⟨w, r, -, -, -, -, e⟩ |
    ⟨d, hlt, -, e⟩ <;> rw [e]
  · rw [hseq]
    exact fun h => hop (Seq.run.inj h).1
  · simp
  · exact fun h => hop (Seq.run.inj h).1
  · simp
  · exact fun h => hop (Seq.run.inj h).1

/-- No step outside a transfer reads the latches. -/
theorem step_withLatches {t : State} (hs : OutsideTransfer s) (h : step s = .next t) :
    LatchesUnread d m t (step (withLatches d m s)) := by
  rcases step_cases h with ⟨op, i, hseq, rfl⟩ | ⟨hseq, q, rest, hitems, h⟩ | ⟨hseq, ms, rest, hitems, rfl⟩ |
    ⟨hseq, hitems, rfl⟩
  · have hop : op ≠ .xfer := by
      rintro rfl
      exact hs i hseq
    refine .inr ⟨outsideTransfer_runMicroStep hseq hop, ?_⟩
    rw [step_run (s := withLatches d m s) hseq, runMicroStep_withLatches d m s hop]
  · rw [step_request (s := withLatches d m s) hseq hitems]
    unfold accept at h ⊢
    split at h
    · exact exec_withLatches d m (takeRequest q rest s) h
    · cases h
      exact .inr ⟨by simp [OutsideTransfer], rfl⟩
  · rw [step_wait (s := withLatches d m s) hseq hitems]
    refine .inr ⟨fun i => ?_, by rw [clientWait_withLatches]⟩
    rw [clientWait_seq]
    exact hs i
  · rw [step_turn (s := withLatches d m s) hseq hitems]
    exact .inr ⟨hs, rfl⟩

/-- No run from outside a transfer depends on the latches. -/
theorem runSteps_withLatches (n : Nat) (hs : OutsideTransfer s) :
    ∃ t u, runSteps n s = .next t ∧ runSteps n (withLatches d m s) = .next u ∧ withLatches t.dr t.rsr u = t := by
  induction n generalizing s with
  | zero => exact ⟨s, _, rfl, rfl, rfl⟩
  | succ n ih =>
    obtain ⟨t, h⟩ := step_next s
    rw [runSteps_succ h]
    rcases step_withLatches d m s hs h with h' | ⟨ht, h'⟩ <;> rw [runSteps_succ h']
    · obtain ⟨u, hu⟩ := runSteps_next n t
      exact ⟨u, u, hu, hu, rfl⟩
    · exact ih t ht

end latches

/-- Settles O35: a run keeps the other values unread until the acceptance of a byte overwrites them. -/
theorem latchesAreNotReadBeforeWritten : Obligations.LatchesAreNotReadBeforeWritten :=
  fun s d m n hs => runSteps_withLatches d m s n hs

end Sys2Proof.Machine
end

section
/-! ## The reset table and the acceptance of requests (R39, R25) -/

namespace Sys2Proof.Machine

open Sys2Proof.Safety

/-- Settles O10, field by field of the constructed state. -/
theorem constructionGivesTheResetTable : Obligations.ConstructionGivesTheResetTable :=
  fun p c => ⟨construct_seq p c, construct_inited p c, construct_bl p c, congrArg Params.addr (construct_params p c), rfl,
    construct_port p c, by rw [construct_display], construct_trace p c, rfl⟩

/-- R25: in state `READY` a byte is latched and its transfer starts. -/
theorem acceptByte_of_inited {s : State} (h : s.inited = true) (rs : Bit) (b : Byte) :
    acceptByte rs b s = start .xfer (latchByte b rs s) := if_pos h

/-- Settles O14, for both modes of the one acceptance of a byte. -/
theorem byteRequestInReadyStartsTheTransfer : Obligations.ByteRequestInReadyStartsTheTransfer :=
  fun b _ h => ⟨congrArg Host.Outcome.next (acceptByte_of_inited h 0 b),
    congrArg Host.Outcome.next (acceptByte_of_inited h 1 b)⟩

/-- Settles O15: the meaning of `INIT` is that state. -/
theorem initIsAlwaysAccepted : Obligations.InitIsAlwaysAccepted := fun _ => rfl

/-- Settles O16: the meaning of `SETBL v` is that state. -/
theorem setblIsAlwaysAccepted : Obligations.SetblIsAlwaysAccepted := fun _ _ => rfl

/-- R25: the acceptance of a word that decodes runs the request. -/
theorem accept_of_decode {q : RequestWord} {i : Instr} (h : decode q = .request i) (rest : List ClientItem) (s : State) :
    accept q rest s = exec i (takeRequest q rest s) := by
  simp only [accept, h]

/-- Settles O21: an idle block accepts the word, and the acceptance of a word that decodes runs its request. -/
theorem stepRunsTheDecodedRequest : Obligations.StepRunsTheDecodedRequest :=
  ⟨fun k rest => ⟨_, _, _, k.take_eq rest⟩,
    fun _ _ rest s hdecode hseq hitems => (step_request hseq hitems).trans (accept_of_decode hdecode rest s)⟩

end Sys2Proof.Machine
end

section
/-! ## The block has no load (R52)

A step puts values on the pins and tells the display of them, and only the display looks at what either holds. So each part of a
step, from a state with other contents of both, ends in the same state but for those contents. -/

namespace Sys2Proof.Machine

open Sys2Proof.Safety

/-- `s` with another bus address space and another display. -/
def withBus (m : Memory) (d : Display) (s : State) : State := { s with mem := m, display := d }

/-- `u` is `t` but for the bus address space and the display. -/
def AgreeOffBus (t u : State) : Prop := ∃ m d, u = withBus m d t

/-- Both go on, to states that agree but for the bus address space and the display. -/
def NextAgree (o p : Host.Outcome State Fault Refusal) : Prop :=
  ∃ t u, o = .next t ∧ p = .next u ∧ AgreeOffBus t u

section bus
variable (m : Memory) (d : Display) (s : State)

theorem advance_withBus (op : Op) (i : Fin op.len) :
    AgreeOffBus (advance op i s) (advance op i (withBus m d s)) := by
  unfold advance
  split
  · exact ⟨m, d, rfl⟩
  · cases op with
    | xfer => exact ⟨m, d, rfl⟩
    | init => exact ⟨m, d.endInit, rfl⟩
    | setbl => exact ⟨m, d, rfl⟩

theorem afterWrite_withBus (op : Op) (i : Fin op.len) (r : BusResult) :
    AgreeOffBus (afterWrite op i r s) (afterWrite op i r (withBus m d s)) := by
  have hpolicy : (withBus m d s).params.policy = s.params.policy := rfl
  unfold afterWrite
  rw [hpolicy]
  split
  · exact ⟨m, d, rfl⟩
  · exact advance_withBus m d s op i
  · exact advance_withBus m d s op i

/-- R34, R35: a bus write overwrites the pins, and what they held decides only what the display latches. -/
theorem busWrite_withBus (w : Byte) (r : BusResult) :
    busWrite w r (withBus m d s) =
      withBus (Memory.set m s.addr.toNat (portAfter w r)) (d.observe (Memory.read m s.addr.toNat) w r)
        (busWrite w r s) := rfl

/-- R52: no micro-step reads the pins or the display: neither the word it writes nor the result nor what follows does. -/
theorem runMicroStep_withBus (op : Op) (i : Fin op.len) :
    AgreeOffBus (runMicroStep op i s) (runMicroStep op i (withBus m d s)) := by
  have hhung : (withBus m d s).hung = s.hung := rfl
  have hanswer : (withBus m d s).answer 0 = s.answer 0 := rfl
  unfold runMicroStep
  rw [hhung, hanswer]
  split
  · exact ⟨m, d, rfl⟩
  · split
    · next n rs en _ =>
      have hword : writeWord n rs en (withBus m d s) = writeWord n rs en s := rfl
      rw [hword, busWrite_withBus]
      exact afterWrite_withBus _ _ _ op i _
    · next t _ => exact advance_withBus m d (delay (t.value s) s) op i

theorem acceptByte_withBus (rs : Bit) (b : Byte) :
    AgreeOffBus (acceptByte rs b s) (acceptByte rs b (withBus m d s)) := by
  have hinited : (withBus m d s).inited = s.inited := rfl
  unfold acceptByte
  rw [hinited]
  split <;> exact ⟨m, d, rfl⟩

theorem exec_withBus (i : Instr) : NextAgree (exec i s) (exec i (withBus m d s)) := by
  cases i with
  | wrcmd b => exact ⟨_, _, rfl, rfl, acceptByte_withBus m d s 0 b⟩
  | wrdata b => exact ⟨_, _, rfl, rfl, acceptByte_withBus m d s 1 b⟩
  | init => exact ⟨_, _, rfl, rfl, m, d.beginInit, rfl⟩
  | setbl v => exact ⟨_, _, rfl, rfl, m, d, rfl⟩

/-- R52: no acceptance reads the pins or the display. -/
theorem accept_withBus (q : RequestWord) (rest : List ClientItem) :
    NextAgree (accept q rest s) (accept q rest (withBus m d s)) := by
  unfold accept
  split
  · next i _ => exact exec_withBus m d (takeRequest q rest s) i
  · exact ⟨_, _, rfl, rfl, m, d, rfl⟩

theorem clientWait_withBus (ms : Nat) (rest : List ClientItem) :
    AgreeOffBus (clientWait ms rest s) (clientWait ms rest (withBus m d s)) := by
  have hhung : (withBus m d s).hung = s.hung := rfl
  unfold clientWait
  rw [hhung]
  split <;> exact ⟨m, d, rfl⟩

/-- R52: no step reads the pins or the display. -/
theorem step_withBus : NextAgree (step s) (step (withBus m d s)) := by
  obtain ⟨t, h⟩ := step_next s
  rcases step_cases h with ⟨op, i, hseq, -⟩ | ⟨hseq, q, rest, hitems, -⟩ | ⟨hseq, ms, rest, hitems, -⟩ | ⟨hseq, hitems, -⟩
  · exact ⟨_, _, step_run hseq, step_run (s := withBus m d s) hseq, runMicroStep_withBus m d s op i⟩
  · rw [step_request hseq hitems, step_request (s := withBus m d s) hseq hitems]
    exact accept_withBus m d s q rest
  · exact ⟨_, _, step_wait hseq hitems, step_wait (s := withBus m d s) hseq hitems, clientWait_withBus m d s ms rest⟩
  · exact ⟨_, _, step_turn hseq hitems, step_turn (s := withBus m d s) hseq hitems, m, d, rfl⟩

/-- No run reads the pins or the display. -/
theorem runSteps_withBus (n : Nat) : NextAgree (runSteps n s) (runSteps n (withBus m d s)) := by
  induction n generalizing m d s with
  | zero => exact ⟨_, _, rfl, rfl, m, d, rfl⟩
  | succ n ih =>
    obtain ⟨t, u, h, h', m', d', rfl⟩ := step_withBus m d s
    rw [runSteps_succ h, runSteps_succ h']
    exact ih m' d' t

end bus

/-- Settles O36: the two runs agree step by step, whatever the pins and the display hold by then. -/
theorem blockNeverReadsTheBus : Obligations.BlockNeverReadsTheBus := by
  intro s m d n
  obtain ⟨t, u, ht, hu, m', d', rfl⟩ := runSteps_withBus m d s n
  exact ⟨t, withBus m' d' t, ht, hu, rfl⟩

end Sys2Proof.Machine
end

section
/-! ## Request words, field by field (R85, R86, R88) -/

namespace Sys2Proof

/-- R85: `op` has four values, one per request. -/
theorem op_cases : ∀ op : BitVec 2, op = 0b00#2 ∨ op = 0b01#2 ∨ op = 0b10#2 ∨ op = 0b11#2 := by
  decide

/-- R85: every request word has one of the four values of `op` before its payload. -/
theorem word_cases (q : RequestWord) :
    ∃ pl : Byte, q = 0b00#2 ++ pl ∨ q = 0b01#2 ++ pl ∨ q = 0b10#2 ++ pl ∨ q = 0b11#2 ++ pl := by
  refine ⟨RequestWord.pl q, ?_⟩
  rw [← op_append_pl q, pl_append]
  rcases op_cases (RequestWord.op q) with hop | hop | hop | hop <;> simp [hop]

/-- R85: the value of a word is 256 times `op` plus the payload's. -/
theorem toNat_append_pl (op : BitVec 2) (pl : Byte) : (op ++ pl).toNat = 256 * op.toNat + pl.toNat := by
  rw [BitVec.toNat_append, ← Nat.shiftLeft_add_eq_or_of_lt pl.isLt, Nat.shiftLeft_eq, Nat.mul_comm]

/-! ### The decoder on each value of `op` -/

section decode
variable (pl : Byte)

@[simp] theorem decode_wrcmd_word : decode (0b00#2 ++ pl) = .request (.wrcmd pl) := by
  simp [decode]

@[simp] theorem decode_wrdata_word : decode (0b01#2 ++ pl) = .request (.wrdata pl) := by
  simp [decode]

theorem decode_init_word_of_payload :
    decode (0b10#2 ++ pl) = if pl = 0x00#8 then .request .init else .illegal .initPayload := by
  simp [decode]

theorem decode_setbl_word_of_payload :
    decode (0b11#2 ++ pl) =
      if pl.extractLsb' 1 7 = 0b0000000#7 then .request (.setbl (pl.extractLsb' 0 1)) else .illegal .setblPayload := by
  simp [decode]

end decode

/-- R85, R86: the word of a request decodes to it. -/
@[simp] theorem decode_encode (i : Instr) : decode (encode i) = .request i := by
  cases i with
  | wrcmd b => exact decode_wrcmd_word b
  | wrdata b => exact decode_wrdata_word b
  | init => exact decode_init_word
  | setbl v => revert v; decide

/-- Settles O2: one direction per request, the other by inversion of the decoder. -/
theorem decodeAndEncodeAreInverse : Obligations.DecodeAndEncodeAreInverse :=
  ⟨decode_encode, fun _ _ => encode_of_decode⟩

/-! ### The check on the fields -/

/-- R85: only `INIT` and `SETBL` ask something of the payload. -/
theorem RequestFields.wf_iff (f : RequestFields) :
    f.wf = true ↔ (f.op = 0b10#2 → f.pl = 0) ∧ (f.op = 0b11#2 → f.pl.extractLsb' 1 7 = 0) := by
  simp [RequestFields.wf, RequestFields.initPayloadOk, RequestFields.setblPayloadOk, Decidable.imp_iff_not_or]

/-- R85: the check asks of each value of `op` what the decoder asks of it. -/
theorem wf_iff_exists_request (op : BitVec 2) (pl : Byte) :
    ({ op := op, pl := pl } : RequestFields).wf = true ↔ ∃ i, decode (op ++ pl) = .request i := by
  rw [RequestFields.wf_iff]
  rcases op_cases op with rfl | rfl | rfl | rfl
  · simp
  · simp
  · rw [decode_init_word_of_payload]
    split <;> simp [*]
  · rw [decode_setbl_word_of_payload]
    split <;> simp [*]

/-- Settles O4: the fields' word is `op` before `pl`. -/
theorem wellFormedFieldsDecode : Obligations.WellFormedFieldsDecode :=
  fun f => wf_iff_exists_request f.op f.pl

/-! ### The rows of the table -/

/-- R86: every mask takes the whole of `op`. -/
theorem op_mask : ∀ r ∈ opcodeRows, RequestWord.op r.mask = BitVec.allOnes 2 := by
  decide

/-- R86: match and mask of a row fix `op`, and constrain the payload on its own. -/
theorem fields_of_covers {r : OpcodeRow} (hr : r ∈ opcodeRows) {q : RequestWord} (h : r.covers q = true) :
    RequestWord.op q = RequestWord.op r.pattern ∧
    RequestWord.pl q &&& RequestWord.pl r.mask = RequestWord.pl r.pattern := by
  have hmatch : q &&& r.mask = r.pattern := eq_of_beq h
  constructor
  · calc
      RequestWord.op q = RequestWord.op q &&& RequestWord.op r.mask := by rw [op_mask r hr, BitVec.and_allOnes]
      _ = RequestWord.op (q &&& r.mask) := BitVec.extractLsb'_and.symm
      _ = RequestWord.op r.pattern := by rw [hmatch]
  · rw [← hmatch]
    exact BitVec.extractLsb'_and.symm

/-- R85: a payload that the mask of `SETBL` leaves nothing of has bits 7:1 clear. -/
theorem highBits_eq_zero_of_and_mask {pl : Byte} (h : pl &&& 0xFE#8 = 0) : pl.extractLsb' 1 7 = 0 := by
  calc
    pl.extractLsb' 1 7 = pl.extractLsb' 1 7 &&& BitVec.allOnes 7 := BitVec.and_allOnes.symm
    _ = (pl &&& 0xFE#8).extractLsb' 1 7 := (BitVec.extractLsb'_and (x := pl) (y := 0xFE#8)).symm
    _ = 0 := by rw [h]; rfl

/-- R86: no row covers a reserved word. -/
theorem exists_request_of_covers {r : OpcodeRow} (hr : r ∈ opcodeRows) {q : RequestWord} (h : r.covers q = true) :
    ∃ i, decode q = .request i := by
  rw [← op_append_pl q, ← wf_iff_exists_request, RequestFields.wf_iff]
  obtain ⟨hop, hpl⟩ := fields_of_covers hr h
  simp only [opcodeRows, List.mem_cons, List.not_mem_nil, or_false] at hr
  rcases hr with rfl | rfl | rfl | rfl
  · have hop : RequestWord.op q = 0b00#2 := hop
    simp [hop]
  · have hop : RequestWord.op q = 0b01#2 := hop
    simp [hop]
  · have hop : RequestWord.op q = 0b10#2 := hop
    have hpl : RequestWord.pl q = 0 := BitVec.and_allOnes.symm.trans hpl
    simp [hop, hpl]
  · have hop : RequestWord.op q = 0b11#2 := hop
    have hpl : (RequestWord.pl q).extractLsb' 1 7 = 0 := highBits_eq_zero_of_and_mask hpl
    simp [hop, hpl]

/-- R86: the mnemonic names the row. -/
theorem row_eq_of_mnemonic_eq : ∀ r ∈ opcodeRows, ∀ r' ∈ opcodeRows, r.mnemonic = r'.mnemonic → r = r' := by
  decide

/-- R86: a request's word belongs to the row of its mnemonic and to no other. -/
theorem encodedInItsRow : ∀ i, Laws.EncodedInItsRow.Statement i
  | .wrcmd b => Laws.EncodedInItsRow.wrcmd b
  | .wrdata b => Laws.EncodedInItsRow.wrdata b
  | .init => Laws.EncodedInItsRow.init
  | .setbl v => Laws.EncodedInItsRow.setbl v

/-- R86: a word that decodes belongs to the row of its request's mnemonic and to no other. -/
theorem covers_iff_of_decode {q : RequestWord} {i : Instr} (h : decode q = .request i) {r : OpcodeRow}
    (hr : r ∈ opcodeRows) : r.covers q = true ↔ r.mnemonic = i.mnemonic := by
  rw [← encode_of_decode h]
  exact encodedInItsRow i r hr

/-- Settles O5: a row covers only words of requests, and a request's word belongs to one row. -/
theorem opcodeTableMatchesTheDecoder : Obligations.OpcodeTableMatchesTheDecoder := by
  constructor
  · intro r hr q
    constructor
    · intro hcovers
      obtain ⟨i, hi⟩ := exists_request_of_covers hr hcovers
      exact ⟨i, hi, ((covers_iff_of_decode hi hr).mp hcovers).symm⟩
    · rintro ⟨i, hi, hmnemonic⟩
      exact (covers_iff_of_decode hi hr).mpr hmnemonic.symm
  · intro r hr r' hr' q hcovers hcovers'
    obtain ⟨i, hi⟩ := exists_request_of_covers hr hcovers
    have hname : r.mnemonic = i.mnemonic := (covers_iff_of_decode hi hr).mp hcovers
    have hname' : r'.mnemonic = i.mnemonic := (covers_iff_of_decode hi hr').mp hcovers'
    exact row_eq_of_mnemonic_eq r hr r' hr' (hname.trans hname'.symm)

/-! ### The reserved words -/

/-- R85: bits 7:1 of a payload are clear in the payloads 0 and 1. -/
theorem highBits_eq_zero_iff (pl : Byte) : pl.extractLsb' 1 7 = 0b0000000#7 ↔ pl.toNat < 2 := by
  rw [← BitVec.toNat_inj, BitVec.extractLsb'_toNat, Nat.shiftRight_eq_div_pow]
  have hlt := pl.isLt
  simp
  omega

/-- Settles O3: `WRCMD` and `WRDATA` have no reserved word, and of `INIT` and `SETBL` the payload decides. -/
theorem reservedWordsAreTheTwoRanges : Obligations.ReservedWordsAreTheTwoRanges := by
  intro q
  obtain ⟨pl, rfl | rfl | rfl | rfl⟩ := word_cases q
  · simp [toNat_append_pl]; omega
  · simp [toNat_append_pl]; omega
  · have hzero : pl = 0x00#8 ↔ pl.toNat = 0 := BitVec.toNat_inj.symm
    simp only [toNat_append_pl, decode_init_word_of_payload, hzero]
    split <;> simp <;> omega
  · simp only [toNat_append_pl, decode_setbl_word_of_payload, highBits_eq_zero_iff]
    split <;> simp <;> omega

/-- Settles O1: six words are encodings, two have a reserved payload. -/
theorem sampleWordsDecode : Obligations.SampleWordsDecode :=
  ⟨decode_encode (.wrcmd 0x80), decode_encode (.wrcmd 0xFF), decode_encode (.wrdata 0x41), decode_encode .init,
    decode_encode (.setbl 0), decode_encode (.setbl 1), decode_init_word_of_payload 0x01,
    decode_setbl_word_of_payload 0x03⟩

end Sys2Proof
end

section
/-! ## Text lines, response words and expander words (R81, R83, R89, R91) -/

namespace Sys2Proof.Machine

/-- Settles O6: each line is read, and each request encoded, by evaluation. -/
theorem textLinesHaveTheirWords : Obligations.TextLinesHaveTheirWords := by
  unfold Obligations.TextLinesHaveTheirWords
  decide

@[simp] theorem Response.ofWord_word (c : Response) : Response.ofWord c.word = c := by
  cases c <;> rfl

@[simp] theorem Response.word_ofWord : ∀ w : ResponseWord, (Response.ofWord w).word = w := by
  decide

/-- Settles O7: the table is the definition, and word and code are inverse to each other. -/
theorem responseWordsNumberTheCodes : Obligations.ResponseWordsNumberTheCodes :=
  ⟨rfl, rfl, rfl, rfl, Response.ofWord_word, Response.word_ofWord⟩

/-- A mask of `len` ones from bit `lo` on selects that field of a word, in its place. -/
theorem and_mask_of_field {w lo len : Nat} {x : BitVec w} {field : BitVec len} (h : x.extractLsb' lo len = field) :
    x &&& (BitVec.allOnes len).setWidth w <<< lo = field.setWidth w <<< lo := by
  subst h
  ext i hi
  by_cases hlo : i < lo
  · simp [hlo]
  · simp [hlo, Nat.add_sub_cancel' (Nat.le_of_not_lt hlo), BitVec.getLsbD_eq_getElem hi, Bool.and_comm]

section expanderWord
variable (n : Nibble) (bl rs en : Bit)

theorem expanderWord_nibbleField : (expanderWord n bl rs en).extractLsb' 4 4 = n :=
  expanderWord_dataPins n bl rs en

theorem expanderWord_backlightField : (expanderWord n bl rs en).extractLsb' 3 1 = bl := by
  revert n bl rs en; decide

theorem expanderWord_enableField : (expanderWord n bl rs en).extractLsb' 2 1 = en := by
  revert n bl rs en; decide

theorem expanderWord_rwField : (expanderWord n bl rs en).extractLsb' 1 1 = 0 := by
  revert n bl rs en; decide

theorem expanderWord_modeField : (expanderWord n bl rs en).extractLsb' 0 1 = rs :=
  expanderWord_rsPin n bl rs en

/-- R81: the closed form; each `++` shifts what stands before it. -/
theorem expanderWord_eq_shiftOr :
    expanderWord n bl rs en =
      (n.setWidth 8 <<< 4) ||| (bl.setWidth 8 <<< 3) ||| (en.setWidth 8 <<< 2) ||| rs.setWidth 8 := by
  calc
    expanderWord n bl rs en = (n ++ bl ++ en ++ 0b0#1 ++ rs).setWidth 8 := (BitVec.setWidth_eq _).symm
    _ = _ := by
      simp only [BitVec.setWidth_append_eq_shiftLeft_setWidth_or, BitVec.shiftLeft_or_distrib, ← BitVec.shiftLeft_add]
      simp

/-- R83: raising Enable sets `EN_BIT` and nothing else. -/
theorem expanderWord_raise : expanderWord n bl rs 1 = expanderWord n bl rs 0 ||| 0x04 := by
  simp [expanderWord_eq_shiftOr]
  ac_rfl

/-- R81: `EN_BIT` selects the Enable bit. -/
theorem expanderWord_and_enBit : expanderWord n bl rs en &&& 0x04 = en.setWidth 8 <<< 2 :=
  and_mask_of_field (expanderWord_enableField n bl rs en)

end expanderWord

/-- Settles O8: each mask selects the field it stands over. -/
theorem expanderWordHasItsFields : Obligations.ExpanderWordHasItsFields := by
  intro n bl rs en
  have hmode := expanderWord_modeField n bl rs en
  have hrw := expanderWord_rwField n bl rs en
  have hbacklight := expanderWord_backlightField n bl rs en
  have hnibble := expanderWord_nibbleField n bl rs en
  exact ⟨hnibble, hbacklight, expanderWord_enableField n bl rs en, hrw, hmode, expanderWord_eq_shiftOr n bl rs en,
    (and_mask_of_field hmode).trans (BitVec.shiftLeft_zero _), and_mask_of_field hrw,
    expanderWord_and_enBit n bl rs en, and_mask_of_field hbacklight, and_mask_of_field hnibble, fun _ _ _ => rfl⟩

/-- Settles O9: the three words differ in Enable alone. -/
theorem nibblePulseIsSetupRaiseDrop : Obligations.NibblePulseIsSetupRaiseDrop :=
  fun n m s => ⟨rfl, expanderWord_raise (n.value s) s.bl (m.value s),
    expanderWord_and_enBit (n.value s) s.bl (m.value s) 0⟩

end Sys2Proof.Machine
end

section
/-! ## Operations and their plans (R115, R133, R145) -/

namespace Sys2Proof.Machine

open Sys2Proof.Safety

/-- R81, R115: a word with Enable low is its nibble beside the two line bits. -/
theorem expanderWord_eq_lineBits (n : Nibble) (k rs : Bit) :
    expanderWord n k rs 0 = (n.setWidth 8 <<< 4) ||| lineBits k rs := by
  simp [expanderWord_eq_shiftOr, lineBits, BitVec.or_assoc]

/-- R53: the high half of a byte in its place. -/
theorem highNibble_shifted (b : Byte) : (highNibble b).setWidth 8 <<< 4 = b &&& 0xF0 :=
  (and_mask_of_field (x := b) (lo := 4) (field := highNibble b) rfl).symm

/-- R53: the low half of a byte, brought to the place of the high one. -/
theorem lowNibble_shifted (b : Byte) : (lowNibble b).setWidth 8 <<< 4 = (b <<< 4) &&& 0xF0 := by
  revert b; decide

/-- R112, R115: `XferTrace` is the six words of the two pulses. -/
theorem xferTrace_eq_expanderWords (b : Byte) (rs k : Bit) :
    xferTrace b rs k =
      [expanderWord (highNibble b) k rs 0, expanderWord (highNibble b) k rs 1, expanderWord (highNibble b) k rs 0,
       expanderWord (lowNibble b) k rs 0, expanderWord (lowNibble b) k rs 1, expanderWord (lowNibble b) k rs 0] := by
  simp only [expanderWord_raise, expanderWord_eq_lineBits, highNibble_shifted, lowNibble_shifted, xferTrace]

/-- What a micro-step of an operation that starts in `s` is to do. -/
def MicroStep.planned (s : State) : MicroStep → Planned
  | .write n m en => .write (writeWord n m en s)
  | .delay d => .wait (d.value s)

/-- R115, R133, R145: the closed form of an operation says what its micro-program does. -/
theorem opPlan_eq_microProgram (op : Op) (s : State) : opPlan s op = (microProgram op).map (MicroStep.planned s) := by
  cases op with
  | xfer =>
    rw [opPlan, xferPlan, xferTrace_eq_expanderWords]
    rfl
  | init =>
    have hthree : 0x30#8 ||| lineBits s.bl 0 = expanderWord 0x3 s.bl 0 0 := (expanderWord_eq_lineBits 0x3 s.bl 0).symm
    have htwo : 0x20#8 ||| lineBits s.bl 0 = expanderWord 0x2 s.bl 0 0 := (expanderWord_eq_lineBits 0x2 s.bl 0).symm
    simp only [opPlan, initPlan, hthree, htwo, ← expanderWord_raise]
    rfl
  | setbl =>
    have hzero : lineBits s.bl 0 = expanderWord 0x0 s.bl 0 0 :=
      (BitVec.zero_or).symm.trans (expanderWord_eq_lineBits 0x0 s.bl 0).symm
    rw [opPlan, setblPlan, hzero]
    rfl

/-! ### The outcome of a plan, one part at a time -/

/-- R184, R186: no write but one that fails under `propagate` ends the operation. -/
theorem goes_iff (r : BusResult) (policy : BusErrPolicy) :
    ¬ (r = .fail ∧ policy = .propagate) ↔ r = .ok ∨ policy = .ignore := by
  cases r <;> cases policy <;> simp

/-- `carryOut` from the second answer on is `carryOut` of the answers without the first. -/
theorem carryOut_succ {policy : BusErrPolicy} {a : BusAddr} {answer answer' : Nat → BusResult}
    (h : ∀ k, answer' k = answer (k + 1)) (k : Nat) (plan : List Planned) :
    carryOut policy a answer' k plan = carryOut policy a answer (k + 1) plan := by
  induction plan generalizing k with
  | nil => rfl
  | cons p rest ih => cases p <;> simp only [carryOut, ih, h]

section outcome
variable (s : State) (w : Byte) (t : Nat) (rest : List Planned)

@[simp] theorem outcome_nil : outcome s [] = ([], .ok) := rfl

/-- R184: under `propagate` a failed write is the last event. -/
theorem outcome_write_fail (hfail : s.answer 0 = .fail) (hpolicy : s.params.policy = .propagate) :
    outcome s (.write w :: rest) = ([.bus s.addr w .fail], .busFail) :=
  if_pos ⟨hfail, hpolicy⟩

/-- R186: after any other write the plan goes on. -/
theorem outcome_write (hgoes : ¬ (s.answer 0 = .fail ∧ s.params.policy = .propagate)) :
    outcome s (.write w :: rest) =
      (.bus s.addr w (s.answer 0) :: (outcome (busWrite w (s.answer 0) s) rest).1,
        (outcome (busWrite w (s.answer 0) s) rest).2) := by
  have hrest : outcome (busWrite w (s.answer 0) s) rest = carryOut s.params.policy s.addr s.answer 1 rest :=
    carryOut_succ (answer_wrote rfl) 0 rest
  rw [hrest]
  exact if_neg hgoes

/-- After a delay the plan goes on. -/
theorem outcome_wait :
    outcome s (.wait t :: rest) = (.wait t :: (outcome (delay t s) rest).1, (outcome (delay t s) rest).2) := rfl

end outcome

/-! ### What the events of an operation and its response do to the state -/

/-- An event of an operation is made: its bus write or its delay, the sequencer apart. -/
def Event.perform : Event → State → State
  | .bus _ w r, s => busWrite w r s
  | .wait t, s => delay t s
  | .req _, s => s
  | .resp _, s => s

/-- Some events of an operation are made, one after the other. -/
def perform : List Event → State → State
  | [], s => s
  | e :: rest, s => perform rest (e.perform s)

/-- The operation answers `c`: it completes, or a failed write has cut it short (R25, R184). -/
def answered (op : Op) : Response → State → State
  | .ok, s => complete op s
  | c, s => respond c s.clearInited

@[simp] theorem delay_port (t : Nat) (s : State) : (delay t s).port = s.port := rfl

section perform
variable (es : List Event) (s : State)

/-- What every bus write and every delay leaves alone, they leave alone together. -/
theorem perform_frame {α : Type} (f : State → α) (hbus : ∀ w r s, f (busWrite w r s) = f s)
    (hdelay : ∀ t s, f (delay t s) = f s) : f (perform es s) = f s := by
  induction es generalizing s with
  | nil => rfl
  | cons e rest ih => cases e <;> simp only [perform, Event.perform, ih, hbus, hdelay]

@[simp] theorem perform_dr : (perform es s).dr = s.dr := perform_frame es s State.dr busWrite_dr delay_dr
@[simp] theorem perform_rsr : (perform es s).rsr = s.rsr := perform_frame es s State.rsr busWrite_rsr delay_rsr
@[simp] theorem perform_bl : (perform es s).bl = s.bl := perform_frame es s State.bl busWrite_bl delay_bl
@[simp] theorem perform_inited : (perform es s).inited = s.inited :=
  perform_frame es s State.inited busWrite_inited delay_inited
@[simp] theorem perform_params : (perform es s).params = s.params :=
  perform_frame es s State.params busWrite_params delay_params
@[simp] theorem perform_client : (perform es s).client = s.client :=
  perform_frame es s State.client busWrite_client delay_client

/-- R34: `PORT` follows the bus writes. -/
@[simp] theorem perform_port : (perform es s).port = portAfterEvents s.port es := by
  induction es generalizing s with
  | nil => rfl
  | cons e rest ih => cases e <;> simp [perform, Event.perform, portAfterEvents, ih]

/-- R34: every other bus address is left alone. -/
theorem perform_portAt {a : BusAddr} (ha : a ≠ s.addr) : (perform es s).portAt a = s.portAt a := by
  induction es generalizing s with
  | nil => rfl
  | cons e rest ih =>
    cases e with
    | bus a' w r => exact (ih (busWrite w r s) ha).trans (busWrite_portAt w r s ha)
    | wait t => exact ih (delay t s) ha
    | req q => exact ih s ha
    | resp c => exact ih s ha

/-- R35, R36: the display sees the bus writes. -/
@[simp] theorem perform_display : (perform es s).display = displayAfter s.port s.display es := by
  induction es generalizing s with
  | nil => rfl
  | cons e rest ih => cases e <;> simp [perform, Event.perform, displayAfter, ih]

/-- The writes and delays do not look at the sequencer. -/
theorem perform_withSeq (q : Seq) : perform es { s with seq := q } = { perform es s with seq := q } := by
  induction es generalizing s with
  | nil => rfl
  | cons e rest ih =>
    have hevent : e.perform { s with seq := q } = { e.perform s with seq := q } := by cases e <;> rfl
    rw [perform, hevent]
    exact ih (e.perform s)

/-- The events of a plan's outcome are what its performance adds to the trace. -/
theorem perform_outcome_trace (plan : List Planned) :
    (perform (outcome s plan).1 s).trace = s.trace ++ (outcome s plan).1 := by
  induction plan generalizing s with
  | nil => simp [perform]
  | cons p rest ih =>
    cases p with
    | write w =>
      by_cases hcut : s.answer 0 = .fail ∧ s.params.policy = .propagate
      · simp [outcome_write_fail s w rest hcut.1 hcut.2, perform, Event.perform]
      · simp [outcome_write s w rest hcut, perform, Event.perform, ih]
    | wait t => simp [outcome_wait, perform, Event.perform, ih]

end perform

section answered
variable (op : Op) (c : Response) (s : State)

@[simp] theorem answered_seq : (answered op c s).seq = .idle := by cases c <;> simp [answered]
@[simp] theorem answered_dr : (answered op c s).dr = s.dr := by cases c <;> simp [answered]
@[simp] theorem answered_rsr : (answered op c s).rsr = s.rsr := by cases c <;> simp [answered]
@[simp] theorem answered_bl : (answered op c s).bl = s.bl := by cases c <;> simp [answered]
@[simp] theorem answered_params : (answered op c s).params = s.params := by cases c <;> simp [answered]
@[simp] theorem answered_mem : (answered op c s).mem = s.mem := by cases c <;> simp [answered]
@[simp] theorem answered_trace : (answered op c s).trace = s.trace ++ ([.resp c] : List Event) := by
  cases c <;> simp [answered]
@[simp] theorem answered_client : (answered op c s).client = s.client.onResponse c := by
  cases c <;> simp [answered]

/-- R27: `INITED` after an operation. -/
@[simp] theorem answered_inited : (answered op c s).inited = initedAfter op c s.inited := by
  cases c with
  | ok => cases op <;> rfl
  | _ => rfl

/-- R36: only a completed `INIT` has an effect of its own on the display. -/
@[simp] theorem answered_display :
    (answered op c s).display = if op = .init ∧ c = .ok then s.display.endInit else s.display := by
  cases c with
  | ok => cases op <;> rfl
  | _ => simp [answered]

@[simp] theorem answered_port : (answered op c s).port = s.port :=
  port_congr (answered_mem op c s) (answered_params op c s)

@[simp] theorem answered_portAt (a : BusAddr) : (answered op c s).portAt a = s.portAt a :=
  portAt_congr (answered_mem op c s) a

/-- The response puts the sequencer back wherever it was. -/
theorem answered_withSeq (q : Seq) : answered op c { s with seq := q } = answered op c s := by
  cases c with
  | ok => cases op <;> rfl
  | _ => rfl

end answered

/-! ### An operation from start to response -/

/-- From `s` the operation makes the events of `o`, one per step and busy until the last, and answers its code. -/
def Performs (op : Op) (s : State) (o : List Event × Response) : Prop :=
  (∀ m, m < o.1.length → ∃ u, runSteps m s = .next u ∧ u.busy = true) ∧
  runSteps o.1.length s = .next (answered op o.2 (perform o.1 s))

namespace Performs

variable {op : Op} {s : State} {e : Event}

/-- The operation ends with this step. -/
theorem last {c : Response} (hbusy : s.busy = true) (hstep : step s = .next (answered op c (e.perform s))) :
    Performs op s ([e], c) := by
  refine ⟨fun m hm => ⟨s, ?_, hbusy⟩, runSteps_succ hstep 0⟩
  rw [Nat.lt_one_iff.1 hm, runSteps_zero]

/-- The operation goes on after this step. -/
theorem cons {o : List Event × Response} {q : Seq} (hbusy : s.busy = true)
    (hstep : step s = .next { e.perform s with seq := q }) (h : Performs op { e.perform s with seq := q } o) :
    Performs op s (e :: o.1, o.2) := by
  obtain ⟨hwhile, hend⟩ := h
  constructor
  · intro m hm
    cases m with
    | zero => exact ⟨s, rfl, hbusy⟩
    | succ m =>
      rw [runSteps_succ hstep]
      exact hwhile m (Nat.lt_of_succ_lt_succ hm)
  · rw [List.length_cons, runSteps_succ hstep, hend, perform_withSeq, answered_withSeq]
    rfl

end Performs

/-- R25: the step of a micro-step that is a bus write. -/
theorem step_write {s : State} {op : Op} {i : Fin op.len} {n : NibbleSource} {m : ModeSource} {en : Bit}
    (hseq : s.seq = .run op i) (hmicro : microStep op i = .write n m en) (hhang : s.env.hangAfter = none) :
    step s = .next (afterWrite op i (s.answer 0) (busWrite (writeWord n m en s) (s.answer 0) s)) := by
  rw [step_run hseq, runMicroStep, if_neg (by simp [State.hung, hhang]), hmicro]

/-- R25: the step of a micro-step that is a delay. -/
theorem step_delay {s : State} {op : Op} {i : Fin op.len} {d : DelaySource}
    (hseq : s.seq = .run op i) (hmicro : microStep op i = .delay d) (hhang : s.env.hangAfter = none) :
    step s = .next (advance op i (delay (d.value s) s)) := by
  rw [step_run hseq, runMicroStep, if_neg (by simp [State.hung, hhang]), hmicro]

/-- From micro-step `i` on an operation carries out what is left of its micro-program. -/
theorem performs_left {op : Op} {left : List MicroStep} {i : Fin op.len} {s : State}
    (hleft : (microProgram op).drop i.val = left) (hseq : s.seq = .run op i) (hhang : s.env.hangAfter = none) :
    Performs op s (outcome s (left.map (MicroStep.planned s))) := by
  have hlen := microProgram_length op
  induction left generalizing i s with
  | nil => exact absurd (List.drop_eq_nil_iff.1 hleft) (by omega)
  | cons first rest ih =>
    have hbusy : s.busy = true := by simp [busy_eq_true, hseq]
    obtain ⟨hmicro, hrest⟩ := List.cons.inj ((List.drop_eq_getElem_cons (by omega)).symm.trans hleft)
    replace hmicro : microStep op i = first := hmicro
    cases first with
    | write n m en =>
      have hstep := step_write hseq hmicro hhang
      rw [List.map_cons, MicroStep.planned]
      rcases afterWrite_cases op i (s.answer 0) (busWrite (writeWord n m en s) (s.answer 0) s) with
        ⟨hfail, hpolicy, e⟩ | ⟨hgoes, e⟩
      · rw [outcome_write_fail _ _ _ hfail hpolicy]
        rw [e, hfail] at hstep
        exact .last hbusy hstep
      · rw [outcome_write _ _ _ ((goes_iff _ _).2 hgoes)]
        rw [e] at hstep
        rcases advance_cases op i (busWrite (writeWord n m en s) (s.answer 0) s) with ⟨hlt, e⟩ | ⟨hlast, e⟩
        · rw [e] at hstep
          exact .cons hbusy hstep (ih (i := ⟨i.val + 1, hlt⟩) hrest rfl (wrote_hangAfter hhang))
        · obtain rfl : rest = [] := hrest.symm.trans (List.drop_eq_nil_of_le (by omega))
          rw [e] at hstep
          exact .last hbusy hstep
    | delay d =>
      have hlt : i.val + 1 < op.len := delay_not_last hmicro
      have hstep := step_delay hseq hmicro hhang
      rw [advance_of_lt hlt] at hstep
      rw [List.map_cons, MicroStep.planned, outcome_wait]
      exact .cons hbusy hstep (ih (i := ⟨i.val + 1, hlt⟩) hrest rfl (callReturned_hangAfter hhang))

/-- An operation carries out its plan. -/
theorem performs_opPlan {op : Op} {s : State} (hseq : s.seq = .run op ⟨0, op.len_pos⟩)
    (hhang : s.env.hangAfter = none) : Performs op s (outcome s (opPlan s op)) := by
  rw [opPlan_eq_microProgram]
  exact performs_left rfl hseq hhang

/-- Settles O22: the operation performs its plan, whose outcome says what the end state is. -/
theorem acceptedOperationRunsItsPlan : Obligations.AcceptedOperationRunsItsPlan := by
  intro op s hseq hhang
  obtain ⟨hwhile, hend⟩ := performs_opPlan hseq hhang
  refine ⟨hwhile, _, hend, by simp [Emits, perform_outcome_trace], ?_⟩
  simp +contextual [perform_portAt]

/-- R83: a pulse emits setup, raise and drop. -/
theorem pulse_trace (n : NibbleSource) (m : ModeSource) (s : State) :
    (pulse n m s).trace = s.trace ++ ([.bus s.addr (writeWord n m 0 s) .ok, .bus s.addr (writeWord n m 1 s) .ok,
      .bus s.addr (writeWord n m 0 s) .ok] : List Event) := by
  simp only [pulse, busWrite_trace, List.append_assoc]
  rfl

/-- Settles O27: the six writes are two pulses. -/
theorem transferWritesItsSixWords : Obligations.TransferWritesItsSixWords := by
  intro s hseq hhang hok
  have hhigh : (s.dr &&& 0xF0) ||| (s.bl.setWidth 8 <<< 3) ||| s.rsr.setWidth 8 =
      expanderWord (highNibble s.dr) s.bl s.rsr 0 := by
    rw [expanderWord_eq_lineBits, highNibble_shifted, lineBits, BitVec.or_assoc]
    rfl
  have hlow : ((s.dr <<< 4) &&& 0xF0) ||| (s.bl.setWidth 8 <<< 3) ||| s.rsr.setWidth 8 =
      expanderWord (lowNibble s.dr) s.bl s.rsr 0 := by
    rw [expanderWord_eq_lineBits, lowNibble_shifted, lineBits, BitVec.or_assoc]
    rfl
  rw [hhigh, hlow, ← expanderWord_raise, ← expanderWord_raise]
  refine ⟨_, runSteps_transfer hseq hhang hok, ?_, by simp, by simp [pulse], by simp [pulse], ?_⟩
  · rw [Emits, complete_trace, pulse_trace, pulse_trace, List.append_assoc, List.append_assoc]
    rfl
  · rw [port_congr (complete_mem _ _) (complete_params _ _)]
    exact busWrite_port _ _ _

end Sys2Proof.Machine
end

section
/-! ## A byte from the request port to its response (R113, R114) -/

namespace Sys2Proof.Machine

open Sys2Proof.Safety

/-- R85: the word of the two fields, by shift and or. -/
theorem word_eq_shiftOr (op : BitVec 2) (pl : Byte) : op ++ pl = (op.setWidth 10 <<< 8) ||| pl.setWidth 10 := by
  rw [← BitVec.setWidth_append_eq_shiftLeft_setWidth_or, BitVec.setWidth_eq]

/-- R114: with mode 1 the six words are those of mode 0 with bit 0 set. -/
theorem xferTrace_data (b : Byte) (k : Bit) : xferTrace b 1 k = (xferTrace b 0 k).map (· ||| 0x01) := by
  have hline : lineBits k 1 = lineBits k 0 ||| 0x01 := by revert k; decide
  have hraise : ∀ x : Byte, x ||| 0x01 ||| 0x04 = x ||| 0x04 ||| 0x01 := fun x => by ac_rfl
  simp only [xferTrace, hline, List.map_cons, List.map_nil, ← BitVec.or_assoc, hraise]

/-! ### Latches -/

/-- R35, R36: outside an initialisation every bus write makes its entry at once. -/
theorem Display.observe_latches {d : Display} (h : ∀ held, d.phase ≠ .initialising held) (before : Option Byte)
    (w : Byte) (r : BusResult) :
    (d.observe before w r).latches = d.latches ++ (latchEntry d.lost (latchOf before w r)).toList := by
  cases r with
  | ok => rw [Display.observe_ok _ _ _ (.inr h)]
  | fail => simp [Display.observe_fail, Display.held_of_not_initialising h]

/-- U6: a failed write loses the latch trace, and no other. -/
theorem Display.observe_lost (d : Display) (before : Option Byte) (w : Byte) (r : BusResult) :
    (d.observe before w r).lost = (d.lost || r == .fail) := by
  cases r <;> simp

/-- R35, U6: outside an initialisation some events make the entries that `latchesOf` gives. -/
theorem displayAfter_latches (es : List Event) (p : Option Byte) {d : Display}
    (h : ∀ held, d.phase ≠ .initialising held) :
    (displayAfter p d es).latches = d.latches ++ latchesOf d.lost p es := by
  induction es generalizing p d with
  | nil => simp [displayAfter, latchesOf]
  | cons e rest ih =>
    cases e with
    | bus a w r =>
      have hnext : ∀ held, (d.observe p w r).phase ≠ .initialising held := fun held hheld =>
        (Display.initialising_of_observe hheld).elim h
      rw [displayAfter, latchesOf, ih _ hnext, Display.observe_latches h, Display.observe_lost, List.append_assoc]
    | req q => exact ih p h
    | wait t => exact ih p h
    | resp c => exact ih p h

/-- R35, R111: a transfer whose writes succeed latches the two halves of its byte, once each. -/
theorem latchesOf_xferTrace (a : BusAddr) {p : Byte} (hp : enablePin p = false) (b : Byte) (rs k : Bit) :
    latchesOf false (some p) (okWrites a (xferTrace b rs k)) = [.pair rs (highNibble b), .pair rs (lowNibble b)] := by
  have hok : (BusResult.ok == .fail) = false := rfl
  simp [xferTrace_eq_expanderWords, okWrites, latchesOf, portAfter, latchOf_no_edge, latchOf_drop, hp, hok]

/-! ### From the port to the response -/

/-- R27: after a transfer the block is `READY` exactly if the response is `OK`. -/
theorem initedAfter_xfer_iff (c : Response) : initedAfter .xfer c true = true ↔ c = .ok := by
  cases c <;> simp [initedAfter]

section byteRequest
variable {i : Instr} {b : Byte} {rs : Bit} {rest : List ClientItem} {s : State}
  (hexec : ∀ u, exec i u = .next (acceptByte rs b u)) (hseq : s.seq = .idle)
  (hitems : s.client.items = .request (encode i) :: rest)
include hexec hseq hitems

/-- R25: an idle block accepts the byte at the head of the client's items. -/
theorem step_byteRequest : step s = .next (acceptByte rs b (takeRequest (encode i) rest s)) := by
  rw [step_request hseq hitems, accept_of_decode (decode_encode i), hexec]

/-- R182: in state `UNINIT` a byte is refused, which changes nothing else. -/
theorem step_byteRequest_of_uninit (hinited : s.inited = false) :
    step s = .next { s with
      trace := s.trace ++ ([.req (encode i), .resp .uninit] : List Event)
      client := (s.client.take rest).onResponse .uninit } := by
  rw [step_byteRequest hexec hseq hitems, acceptByte, if_neg (by simp [hinited])]
  simp [raise, respond, takeRequest, Failure.code, hseq]

/-- R113, R114: in state `READY` a byte is latched and its transfer carried out, up to the first failure that counts. -/
theorem runSteps_byteRequest (hhang : s.env.hangAfter = none) (hinited : s.inited = true) :
    ∃ t, runSteps (1 + (outcome s (xferPlan b rs s.bl)).1.length) s = .next t ∧
      Emits s t (.req (encode i) :: (outcome s (xferPlan b rs s.bl)).1
        ++ ([.resp (outcome s (xferPlan b rs s.bl)).2] : List Event)) ∧
      t.seq = .idle ∧ t.dr = b ∧ t.rsr = rs ∧ t.bl = s.bl ∧ t.params = s.params ∧
      (t.inited = true ↔ (outcome s (xferPlan b rs s.bl)).2 = .ok) ∧
      t.port = portAfterEvents s.port (outcome s (xferPlan b rs s.bl)).1 ∧
      ((∀ held, s.display.phase ≠ .initialising held) →
        t.display.latches =
          s.display.latches ++ latchesOf s.display.lost s.port (outcome s (xferPlan b rs s.bl)).1) ∧
      ∀ a, a ≠ s.addr → t.portAt a = s.portAt a := by
  have hstep := step_byteRequest hexec hseq hitems
  rw [acceptByte_of_inited (s := takeRequest (encode i) rest s) hinited] at hstep
  set u := start .xfer (latchByte b rs (takeRequest (encode i) rest s))
  have hplan : outcome u (opPlan u .xfer) = outcome s (xferPlan b rs s.bl) := rfl
  have hready : u.inited = true := hinited
  obtain ⟨-, t, hrun, hemits, hidle, hdr, hrsr, hbl, hparams, hinitedAfter, hport, hdisplay, -, hother⟩ :=
    acceptedOperationRunsItsPlan .xfer u rfl hhang
  rw [hplan] at hrun hemits hinitedAfter hport hdisplay
  refine ⟨t, ?_, ?_, hidle, hdr, hrsr, hbl, hparams, ?_, hport, fun hphase => ?_, hother⟩
  · rw [Nat.add_comm, runSteps_succ hstep, hrun]
  · rw [Emits, hemits]
    simp [u]
  · rw [hinitedAfter, hready, initedAfter_xfer_iff]
  · rw [hdisplay, if_neg (by simp)]
    exact displayAfter_latches _ _ hphase

end byteRequest

/-- Settles O23: `WRCMD b` is the byte request with mode 0. -/
theorem wrcmdFromPortToResponse : Obligations.WrcmdFromPortToResponse :=
  ⟨fun b rest s => ⟨word_eq_shiftOr 0b00#2 b, fun hseq hitems hhang =>
      ⟨step_byteRequest_of_uninit (fun _ => rfl) hseq hitems, runSteps_byteRequest (fun _ => rfl) hseq hitems hhang⟩⟩,
    by decide, fun a _ hp => latchesOf_xferTrace a hp 0x80 0 1⟩

/-- Settles O24: `WRDATA b` is the byte request with mode 1. -/
theorem wrdataFromPortToResponse : Obligations.WrdataFromPortToResponse :=
  ⟨fun b rest s => ⟨word_eq_shiftOr 0b01#2 b, xferTrace_data b, fun hseq hitems hhang =>
      ⟨step_byteRequest_of_uninit (fun _ => rfl) hseq hitems, runSteps_byteRequest (fun _ => rfl) hseq hitems hhang⟩⟩,
    by decide, by decide, fun a _ hp => latchesOf_xferTrace a hp 0x41 1 1⟩

end Sys2Proof.Machine
end

section
/-! ## `INIT` from the request port to its response (R131, R133) -/

namespace Sys2Proof.Machine

open Sys2Proof.Safety

/-! ### The run of the request -/

/-- R131: the state in which an accepted `INIT` begins its plan. -/
def acceptedInit (rest : List ClientItem) (s : State) : State :=
  start .init (beginInit (takeRequest (encode .init) rest s).clearInited)

section acceptedInit
variable (rest : List ClientItem) (s : State)
@[simp] theorem acceptedInit_dr : (acceptedInit rest s).dr = s.dr := rfl
@[simp] theorem acceptedInit_rsr : (acceptedInit rest s).rsr = s.rsr := rfl
@[simp] theorem acceptedInit_bl : (acceptedInit rest s).bl = s.bl := rfl
@[simp] theorem acceptedInit_params : (acceptedInit rest s).params = s.params := rfl
@[simp] theorem acceptedInit_display : (acceptedInit rest s).display = s.display.beginInit := rfl
@[simp] theorem acceptedInit_port : (acceptedInit rest s).port = s.port := rfl
end acceptedInit

/-- R25, R131: in either operating state an idle block accepts the `INIT` at the head of the client's items. -/
theorem step_initRequest {rest : List ClientItem} {s : State} (hseq : s.seq = .idle)
    (hitems : s.client.items = .request (encode .init) :: rest) : step s = .next (acceptedInit rest s) := by
  rw [step_request hseq hitems, accept_of_decode (decode_encode .init)]
  rfl

/-- R131: the accepted `INIT` carries out its plan, up to the first failure that counts, and answers. -/
theorem runSteps_initRequest {rest : List ClientItem} {s : State} (hseq : s.seq = .idle)
    (hitems : s.client.items = .request (encode .init) :: rest) (hhang : s.env.hangAfter = none)
    {o : List Event × Response} (ho : outcome s (initPlan s.bl s.params.tInit1Ms s.params.tInit2Ms) = o) :
    runSteps (1 + o.1.length) s = .next (answered .init o.2 (perform o.1 (acceptedInit rest s))) := by
  have hplan : outcome (acceptedInit rest s) (opPlan (acceptedInit rest s) .init) = o := ho
  obtain ⟨-, hrun⟩ := performs_opPlan (op := .init) (s := acceptedInit rest s) rfl hhang
  rw [Nat.add_comm, runSteps_succ (step_initRequest hseq hitems), ← hplan, hrun]

/-- R27: after an `INIT` the block is `READY` exactly if the response is `OK`. -/
theorem initedAfter_init_iff (c : Response) (before : Bool) : initedAfter .init c before = true ↔ c = .ok := by
  cases c <;> simp [initedAfter]

/-- Settles O25: the accepted `INIT` performs its plan, which leaves alone what no bus write and no delay touches. -/
theorem initFromPortToResponse : Obligations.InitFromPortToResponse := by
  refine ⟨rfl, fun rest s hseq hitems hhang => ⟨_, runSteps_initRequest hseq hitems hhang rfl, ?_⟩,
    by decide, by decide⟩
  set plan := initPlan s.bl s.params.tInit1Ms s.params.tInit2Ms
  have htrace : (perform (outcome s plan).1 (acceptedInit rest s)).trace =
      s.trace ++ ([.req (encode .init)] : List Event) ++ (outcome s plan).1 :=
    perform_outcome_trace (acceptedInit rest s) plan
  have hother : ∀ a, a ≠ s.addr → (perform (outcome s plan).1 (acceptedInit rest s)).portAt a = s.portAt a :=
    fun _ => perform_portAt _ (acceptedInit rest s)
  refine ⟨?_, ?_, ?_⟩
  · simp [Emits, htrace]
  · simp [initedAfter_init_iff]
  · simpa using hother

/-! ### An `INIT` whose writes succeed -/

/-- What is planned is a bus write. -/
def Planned.isWrite : Planned → Bool
  | .write _ => true
  | .wait _ => false

/-- The event of what is planned, if its bus write succeeds. -/
def Planned.succeeds (a : BusAddr) : Planned → Event
  | .write w => .bus a w .ok
  | .wait t => .wait t

/-- A plan all of whose writes succeed is carried out to its end and answered `OK`. -/
theorem outcome_of_ok {plan : List Planned} {s : State} (hok : ∀ k, k < plan.countP Planned.isWrite → s.answer k = .ok) :
    outcome s plan = (plan.map (Planned.succeeds s.addr), .ok) := by
  induction plan generalizing s with
  | nil => rfl
  | cons p rest ih =>
    cases p with
    | write w =>
      have hfirst : s.answer 0 = .ok := hok 0 (by simp [Planned.isWrite])
      have hrest : outcome (busWrite w .ok s) rest = (rest.map (Planned.succeeds s.addr), .ok) :=
        ih fun k hk => (answer_wrote rfl k).trans (hok (k + 1) (by simpa [List.countP_cons, Planned.isWrite] using hk))
      rw [outcome_write s w rest (by simp [hfirst]), hfirst, hrest]
      rfl
    | wait t =>
      have hrest : outcome (delay t s) rest = (rest.map (Planned.succeeds s.addr), .ok) :=
        ih fun k hk => (answer_callReturned rfl k).trans (hok k (by simpa [Planned.isWrite] using hk))
      rw [outcome_wait, hrest]
      rfl

/-- The display in an `INIT` that began in `d` and has latched `es` since: held back while the latch trace is lost. -/
def Display.inInit (d : Display) (es : List LatchEvent) : Display :=
  { d with
    phase := .initialising (if d.lost then es else [])
    latches := d.latches ++ (if d.lost then [] else es) }

namespace Display

variable (d : Display) (es : List LatchEvent)

/-- R36: in an initialisation the lone nibbles make no byte. -/
theorem take_of_initialising {d : Display} {held : List LatchEvent} (h : d.phase = .initialising held)
    (e : Option LatchEvent) : d.take e = d := by
  cases e with
  | none => rfl
  | some e => cases e <;> simp [take, h]

theorem inInit_nil : d.inInit [] = d.beginInit := by simp [inInit, beginInit]

/-- U6, R211: a successful write adds its latch. -/
theorem observe_inInit (before : Option Byte) (w : Byte) :
    (d.inInit es).observe before w .ok = d.inInit (es ++ (latchOf before w .ok).toList) := by
  cases hlost : d.lost with
  | false =>
    have hphase : (d.inInit es).phase = .initialising [] := by simp [inInit, hlost]
    rw [observe_ok (d.inInit es) _ _ (.inl hlost), take_of_initialising hphase]
    simp [inInit, hlost]
  | true =>
    have hheld : (d.inInit es).phase = .initialising es := by simp [inInit, hlost]
    rw [observe_ok_held _ _ _ hheld hlost]
    simp [inInit, hlost]

/-- R133, U6: the completion makes the latches known, lost or not. -/
theorem endInit_inInit :
    (d.inInit es).endInit = { d with phase := .high, lost := false, latches := d.latches ++ es } := by
  cases hlost : d.lost <;> simp [inInit, endInit, hlost]

end Display

/-- R35, R211: events of an `INIT` none of whose writes fails add their latches. -/
theorem displayAfter_inInit (plan : List Planned) (a : BusAddr) (p : Option Byte) (d : Display) (es : List LatchEvent) :
    displayAfter p (d.inInit es) (plan.map (Planned.succeeds a)) =
      d.inInit (es ++ latchesOf false p (plan.map (Planned.succeeds a))) := by
  induction plan generalizing p es with
  | nil => simp [displayAfter, latchesOf]
  | cons first rest ih =>
    cases first with
    | write w =>
      have hfirst : latchesOf false p ((Planned.write w :: rest).map (Planned.succeeds a)) =
          (latchOf p w .ok).toList ++ latchesOf false (portAfter w .ok) (rest.map (Planned.succeeds a)) := rfl
      rw [hfirst, ← List.append_assoc, ← ih, ← Display.observe_inInit]
      rfl
    | wait t => exact ih p es

/-- R131, R133: the plan of `INIT` is the words of its four pulses, with the two delays in their places. -/
theorem initPlan_eq_expanderWords (k : Bit) (t₁ t₂ : Nat) :
    initPlan k t₁ t₂ =
      [.write (expanderWord 0x3 k 0 0), .write (expanderWord 0x3 k 0 1), .write (expanderWord 0x3 k 0 0), .wait t₁,
       .write (expanderWord 0x3 k 0 0), .write (expanderWord 0x3 k 0 1), .write (expanderWord 0x3 k 0 0), .wait t₂,
       .write (expanderWord 0x3 k 0 0), .write (expanderWord 0x3 k 0 1), .write (expanderWord 0x3 k 0 0),
       .write (expanderWord 0x2 k 0 0), .write (expanderWord 0x2 k 0 1), .write (expanderWord 0x2 k 0 0)] := by
  simp only [expanderWord_raise, expanderWord_eq_lineBits]
  rfl

/-- R133: with Enable low before it, an `INIT` whose writes succeed latches each of its lone nibbles once. -/
theorem latchesOf_initPlan (a : BusAddr) {p : Byte} (hp : enablePin p = false) (k : Bit) (t₁ t₂ : Nat) :
    latchesOf false (some p) ((initPlan k t₁ t₂).map (Planned.succeeds a)) =
      [.pair 0 0x3, .pair 0 0x3, .pair 0 0x3, .pair 0 0x2] := by
  have hok : (BusResult.ok == .fail) = false := rfl
  simp [initPlan_eq_expanderWords, Planned.succeeds, latchesOf, portAfter, latchOf_no_edge, latchOf_drop, hp, hok]

/-- R34: the port holds the last word of an `INIT` whose writes succeed. -/
theorem portAfterEvents_initPlan (a : BusAddr) (p : Option Byte) (k : Bit) (t₁ t₂ : Nat) :
    portAfterEvents p ((initPlan k t₁ t₂).map (Planned.succeeds a)) = some (0x20#8 ||| lineBits k 0) := rfl

/-- Settles O45: the latches of an `INIT` whose writes succeed are known when it completes, lost or not before. -/
theorem completedInitOpensFourBitMode : Obligations.CompletedInitOpensFourBitMode := by
  intro s p rest hseq hitems hhang hok hport hp
  have hdisplay := displayAfter_inInit (initPlan s.bl s.params.tInit1Ms s.params.tInit2Ms) s.addr s.port s.display []
  rw [Display.inInit_nil, hport, latchesOf_initPlan _ hp] at hdisplay
  refine ⟨_, runSteps_initRequest hseq hitems hhang (outcome_of_ok hok), rfl, ?_⟩
  rw [answered_display, if_pos ⟨rfl, rfl⟩, perform_display, acceptedInit_port, acceptedInit_display, hport, hdisplay,
    Display.endInit_inInit, answered_port, perform_port, portAfterEvents_initPlan]
  refine ⟨rfl, rfl, rfl, ?_⟩
  simp [lineBits]

end Sys2Proof.Machine
end

section
/-! ## `SETBL` from the request port to its response (R145) -/

namespace Sys2Proof.Machine

open Sys2Proof.Safety

/-- R145: the state in which an accepted `SETBL v` makes its one bus write. -/
def acceptedSetbl (v : Bit) (rest : List ClientItem) (s : State) : State :=
  start .setbl (setBacklight v (takeRequest (encode (.setbl v)) rest s))

section acceptedSetbl
variable (v : Bit) (rest : List ClientItem) (s : State)
@[simp] theorem acceptedSetbl_dr : (acceptedSetbl v rest s).dr = s.dr := rfl
@[simp] theorem acceptedSetbl_rsr : (acceptedSetbl v rest s).rsr = s.rsr := rfl
@[simp] theorem acceptedSetbl_bl : (acceptedSetbl v rest s).bl = v := rfl
@[simp] theorem acceptedSetbl_inited : (acceptedSetbl v rest s).inited = s.inited := rfl
@[simp] theorem acceptedSetbl_params : (acceptedSetbl v rest s).params = s.params := rfl
@[simp] theorem acceptedSetbl_display : (acceptedSetbl v rest s).display = s.display := rfl
@[simp] theorem acceptedSetbl_addr : (acceptedSetbl v rest s).addr = s.addr := rfl
@[simp] theorem acceptedSetbl_port : (acceptedSetbl v rest s).port = s.port := rfl
@[simp] theorem acceptedSetbl_trace :
    (acceptedSetbl v rest s).trace = s.trace ++ ([.req (encode (.setbl v))] : List Event) := rfl
end acceptedSetbl

/-- R184, R186: the response to a request whose one bus write comes next. -/
def oneWriteResponse (s : State) : Response :=
  if s.answer 0 = .fail ∧ s.params.policy = .propagate then .busFail else .ok

/-- R145: the plan of `SETBL v` is one write of `v << 3`, made whether it fails or not. -/
theorem outcome_setblPlan (v : Bit) (s : State) :
    outcome s (setblPlan v) = ([.bus s.addr (v.setWidth 8 <<< 3) (s.answer 0)], oneWriteResponse s) := by
  have hword : lineBits v 0 = v.setWidth 8 <<< 3 := by simp [lineBits]
  rw [setblPlan, hword, oneWriteResponse]
  by_cases hcut : s.answer 0 = .fail ∧ s.params.policy = .propagate
  · rw [outcome_write_fail _ _ _ hcut.1 hcut.2, if_pos hcut, hcut.1]
  · rw [outcome_write _ _ _ hcut, outcome_nil, if_neg hcut]

/-- R25, R145: in either operating state an idle block accepts the `SETBL` at the head of the client's items. -/
theorem step_setblRequest {v : Bit} {rest : List ClientItem} {s : State} (hseq : s.seq = .idle)
    (hitems : s.client.items = .request (encode (.setbl v)) :: rest) : step s = .next (acceptedSetbl v rest s) := by
  rw [step_request hseq hitems, accept_of_decode (decode_encode (.setbl v))]
  rfl

/-- R145: the second step makes the one bus write and answers. -/
theorem runSteps_setblRequest {v : Bit} {rest : List ClientItem} {s : State} (hseq : s.seq = .idle)
    (hitems : s.client.items = .request (encode (.setbl v)) :: rest) (hhang : s.env.hangAfter = none) :
    runSteps 2 s = .next (answered .setbl (oneWriteResponse s)
      (busWrite (v.setWidth 8 <<< 3) (s.answer 0) (acceptedSetbl v rest s))) := by
  have hplan : outcome (acceptedSetbl v rest s) (opPlan (acceptedSetbl v rest s) .setbl) =
      ([.bus s.addr (v.setWidth 8 <<< 3) (s.answer 0)], oneWriteResponse s) :=
    outcome_setblPlan v (acceptedSetbl v rest s)
  obtain ⟨-, hrun⟩ := performs_opPlan (op := .setbl) (s := acceptedSetbl v rest s) rfl hhang
  rw [hplan] at hrun
  rw [runSteps_succ (step_setblRequest hseq hitems)]
  exact hrun

/-- R35, R145: a bus write that finds Enable low on a known port latches nothing, lost or not, failed or not. -/
theorem Display.observe_latches_of_enable_low {d : Display} (h : ∀ held, d.phase ≠ .initialising held) {p : Byte}
    (hp : enablePin p = false) (w : Byte) (r : BusResult) : (d.observe (some p) w r).latches = d.latches := by
  rw [observe_latches h, latchOf_no_edge (.inl hp)]
  simp [latchEntry]

/-- Settles O26: the accepted `SETBL` makes one write, whose result and the policy decide `INITED`, `PORT` and the response. -/
theorem setblFromPortToResponse : Obligations.SetblFromPortToResponse := by
  refine ⟨fun v rest s => ⟨by revert v; decide, fun hseq hitems hhang =>
    ⟨_, runSteps_setblRequest hseq hitems hhang, by simp, by simp, by simp, by simp, by simp,
      fun hfail hpolicy => ?_, fun hfail hpolicy => ?_, fun hok => ?_, fun p hport hp hphase => ?_, fun a ha => ?_⟩⟩,
    by decide, by decide⟩
  · have hcode : oneWriteResponse s = .busFail := if_pos ⟨hfail, hpolicy⟩
    simp [Emits, hcode, hfail, initedAfter, portAfter]
  · have hcode : oneWriteResponse s = .ok := if_neg (by simp [hpolicy])
    simp [Emits, hcode, hfail, initedAfter, portAfter]
  · have hcode : oneWriteResponse s = .ok := if_neg (by simp [hok])
    simp [Emits, hcode, hok, initedAfter, portAfter]
  · rw [answered_display, if_neg (by simp), busWrite_display, acceptedSetbl_display, acceptedSetbl_port, hport]
    exact Display.observe_latches_of_enable_low hphase hp _ _
  · rw [answered_portAt]
    exact busWrite_portAt _ _ _ ha

end Sys2Proof.Machine
end

section
/-! ## What the client's calls send (R156 to R164)

An expansion is read off its definition; what needs an argument is the arithmetic of the address and of the character's byte. -/

namespace Sys2Proof.Machine

/-! ### The address of a cursor position (R161, R162) -/

/-- R161, R162, D20: the address over the integers, where the column's remainder needs no cast. -/
theorem ddramAddress_cast (row column : Int) :
    (ddramAddress row column : Int) = column % 64 + (if row % 2 = 1 then 0x40 else 0) := by
  have hcolumn : 0 ≤ column % 64 := Int.emod_nonneg _ (by decide)
  rw [ddramAddress, Nat.cast_add, Int.toNat_of_nonneg hcolumn]
  split <;> rfl

/-- R162: an address has seven bits. -/
theorem ddramAddress_le (row column : Int) : ddramAddress row column ≤ 0x7F := by
  have hcast := ddramAddress_cast row column
  split at hcast <;> omega

/-- S3 of 95_test_vectors.md: on the two rows of 64 columns the address is the position's number, row by row. -/
theorem ddramAddress_of_position {row column : Int} (hrow : 0 ≤ row ∧ row ≤ 1) (hcolumn : 0 ≤ column ∧ column ≤ 63) :
    (ddramAddress row column : Int) = 64 * row + column := by
  have hcast := ddramAddress_cast row column
  split at hcast <;> omega

/-- R161: the address stands in the seven bits below the command bit. -/
theorem ddramCommand_toNat {a : Nat} (h : a ≤ 0x7F) : (cmdDdram ||| BitVec.ofNat 8 a).toNat = 0x80 + a := by
  have hor : 2 ^ 7 * 1 + a = 2 ^ 7 * 1 ||| a := Nat.two_pow_add_eq_or_of_lt (by omega) 1
  rw [BitVec.toNat_or, BitVec.toNat_ofNat, Nat.mod_eq_of_lt (by omega)]
  exact hor.symm

/-- Settles O52: on its domain the address is `64 * row + column`, whose quotient and remainder by 64 give the position back. -/
theorem cursorAddressesAreABijection : Obligations.CursorAddressesAreABijection := by
  constructor
  · intro r c r' c' hr hr₁ hc hc₁ hr' hr₁' hc' hc₁' heq
    have haddr := ddramAddress_of_position ⟨hr, hr₁⟩ ⟨hc, hc₁⟩
    have haddr' := ddramAddress_of_position ⟨hr', hr₁'⟩ ⟨hc', hc₁'⟩
    omega
  · intro a ha
    have haddr := ddramAddress_of_position (row := a / 64) (column := a % 64) (by omega) (by omega)
    exact ⟨a / 64, a % 64, by omega, by omega, by omega, by omega, by omega⟩

/-- Settles O51: the byte is the command bit over the address; the request carries its position as its cursor move. -/
theorem moveCursorSendsItsAddress : Obligations.MoveCursorSendsItsAddress :=
  ⟨fun r c _ => ⟨_, rfl, ddramCommand_toNat (ddramAddress_le r c), ddramAddress_le r c, ddramAddress_cast r c⟩,
    fun _ _ _ _ => rfl, fun _ => rfl, by decide⟩

/-! ### Characters and `INITIALIZE` -/

/-- Settles O50: the character's byte is its code point modulo 256. -/
theorem putCharSendsTheCodePointModulo256 : Obligations.PutCharSendsTheCodePointModulo256 :=
  ⟨fun ch _ => ⟨charByte ch, BitVec.toNat_ofNat ch 8, rfl⟩, fun _ => ⟨rfl, rfl⟩⟩

/-- Settles O49: the expansion of `PUTSTRING` is defined by that of `PUTCHAR`. -/
theorem putStringSendsItsCharactersInOrder : Obligations.PutStringSendsItsCharactersInOrder :=
  ⟨fun _ _ => rfl, fun _ => ⟨rfl, rfl⟩, by decide⟩

/-- Settles O47: the expansion is that list. -/
theorem initializeExpandsInOrder : Obligations.InitializeExpandsInOrder := fun _ => rfl

end Sys2Proof.Machine
end

section
/-! ## The construction of a client (R157) -/

namespace Sys2Proof

/-- R155, R157: the client's check is on its geometry alone, over the integers. -/
theorem ClientParams.wf_iff (c : ClientParams) : c.wf = true ↔ 0 < c.geometry.rows ∧ 0 < c.geometry.columns := by
  simp only [ClientParams.wf, Geometry.wf, Bool.and_eq_true, decide_eq_true_eq]
  omega

end Sys2Proof

namespace Sys2Proof.Machine

/-- Settles O55: the check holds exactly if both numbers are positive. -/
theorem badGeometryIsRefused : Obligations.BadGeometryIsRefused := by
  intro p c
  constructor
  · intro hbad
    have hwf : ¬ c.wf = true := fun h => by
      obtain ⟨hrows, hcolumns⟩ := (ClientParams.wf_iff c).1 h
      omega
    rw [constructClient, if_neg hwf]
  · intro hrows hcolumns
    rw [constructClient, if_pos ((ClientParams.wf_iff c).2 ⟨hrows, hcolumns⟩)]

end Sys2Proof.Machine
end

section
/-! ## What a response does to the call, and the wait behind it (R158 to R160, R166) -/

namespace Sys2Proof.Machine

open Sys2Proof.Safety

/-- R166: after a code other than `OK` the call keeps the waits that come next and the first such code. -/
theorem Client.onResponse_of_ne_ok (k : Client) {c : Response} (hc : c ≠ .ok) :
    k.onResponse c =
      { k with
        items := k.items.takeWhile ClientItem.isWait
        moves := []
        code := if k.code = .ok then c else k.code } := by
  cases c with
  | ok => exact absurd rfl hc
  | _ => rfl

/-- R159, R160, R166: whatever the response, a wait right behind the request stays. -/
theorem Client.onResponse_items_of_wait {k : Client} {ms : Nat} {rest : List ClientItem}
    (hitems : k.items = .wait ms :: rest) (c : Response) :
    ∃ rest', (k.onResponse c).items = .wait ms :: rest' := by
  by_cases hc : c = .ok
  · exact ⟨rest, by rw [hc, Client.onResponse_ok, hitems]⟩
  · refine ⟨rest.takeWhile ClientItem.isWait, ?_⟩
    rw [Client.onResponse_of_ne_ok k hc, hitems]
    rfl

/-- Settles O54: no item of the waits kept is a request. -/
theorem failedRequestEndsItsMacro : Obligations.FailedRequestEndsItsMacro := by
  refine fun k c => ⟨fun hc => ?_, fun hc => by rw [hc, Client.onResponse_ok]⟩
  rw [Client.onResponse_of_ne_ok k hc]
  refine ⟨fun q hq => ?_, List.takeWhile_prefix _, rfl, rfl, rfl, rfl⟩
  have hwait : (ClientItem.request q).isWait = true := List.mem_takeWhile_imp hq
  exact absurd hwait (by simp [ClientItem.isWait])

/-! ### `CLEAR` and `HOME` -/

@[simp] theorem answered_env (op : Op) (c : Response) (s : State) : (answered op c s).env = s.env := by
  cases c <;> simp [answered]

/-- R198: where all calls of the primitives return, they do so after any bus writes and delays. -/
theorem perform_hangAfter {s : State} (h : s.env.hangAfter = none) (es : List Event) :
    (perform es s).env.hangAfter = none := by
  have hframe := perform_frame es s (fun u => u.env.hangAfter.isNone)
    (by simp [Env.wrote, Env.callReturned]) (by simp [Env.callReturned])
  simpa [h] using hframe

/-- R196: an idle block makes the wait at the head of the client's items. -/
theorem step_wait_emits {s : State} {ms : Nat} {rest : List ClientItem} (hseq : s.seq = .idle)
    (hitems : s.client.items = .wait ms :: rest) (hhang : s.env.hangAfter = none) :
    ∃ t, step s = .next t ∧ Emits s t [.wait ms] := by
  refine ⟨_, step_wait hseq hitems, ?_⟩
  rw [clientWait, if_neg (by simp [State.hung, hhang])]
  rfl

/-- R113, R114: in state `READY` a byte's transfer is carried out, up to the first failure that counts, and answered. -/
theorem runSteps_byteRequest_answered {i : Instr} {b : Byte} {rs : Bit} {rest : List ClientItem} {s : State}
    (hexec : ∀ u, exec i u = .next (acceptByte rs b u)) (hseq : s.seq = .idle)
    (hitems : s.client.items = .request (encode i) :: rest) (hhang : s.env.hangAfter = none) (hinited : s.inited = true)
    {o : List Event × Response} (ho : outcome s (xferPlan b rs s.bl) = o) :
    runSteps (1 + o.1.length) s = .next (answered .xfer o.2
      (perform o.1 (start .xfer (latchByte b rs (takeRequest (encode i) rest s))))) := by
  have hstep := step_byteRequest hexec hseq hitems
  rw [acceptByte_of_inited (s := takeRequest (encode i) rest s) hinited] at hstep
  set u := start .xfer (latchByte b rs (takeRequest (encode i) rest s))
  have hplan : outcome u (opPlan u .xfer) = o := ho
  obtain ⟨-, hrun⟩ := performs_opPlan (op := .xfer) (s := u) rfl hhang
  rw [Nat.add_comm, runSteps_succ hstep, ← hplan, hrun]

/-- R166: the wait right behind a request is made after its response, whatever that is. -/
theorem runSteps_wait_after_response {s u : State} {n : Nat} {es : List Event} {k : Client} {c : Response} {ms : Nat}
    {rest : List ClientItem} (hrun : runSteps n s = .next u) (hemits : Emits s u es) (hseq : u.seq = .idle)
    (hhang : u.env.hangAfter = none) (hclient : u.client = k.onResponse c) (hitems : k.items = .wait ms :: rest) :
    ∃ t, runSteps (n + 1) s = .next t ∧ Emits s t (es ++ ([.wait ms] : List Event)) := by
  obtain ⟨rest', hleft⟩ := Client.onResponse_items_of_wait hitems c
  obtain ⟨t, hstep, hwait⟩ := step_wait_emits hseq (by rw [hclient, hleft]) hhang
  refine ⟨t, ?_, ?_⟩
  · rw [runSteps_add hrun, runSteps_succ hstep, runSteps_zero]
  · rw [Emits, hwait, hemits, List.append_assoc]

/-- R159, R160, R166: a command byte with a wait right behind it, refused in state `UNINIT` or carried out in state `READY`. -/
theorem command_then_wait {cmd : Byte} {ms : Nat} {rest : List ClientItem} {s : State} (hseq : s.seq = .idle)
    (hitems : s.client.items = .request (encode (.wrcmd cmd)) :: .wait ms :: rest) (hhang : s.env.hangAfter = none) :
    (s.inited = false → ∃ t, runSteps 2 s = .next t ∧ Emits s t [.req (encode (.wrcmd cmd)), .resp .uninit, .wait ms]) ∧
    (s.inited = true → ∃ t, runSteps (1 + (outcome s (xferPlan cmd 0 s.bl)).1.length + 1) s = .next t ∧
      Emits s t (.req (encode (.wrcmd cmd)) :: (outcome s (xferPlan cmd 0 s.bl)).1
        ++ ([.resp (outcome s (xferPlan cmd 0 s.bl)).2, .wait ms] : List Event))) := by
  have htaken : (s.client.take (.wait ms :: rest)).items = .wait ms :: rest := Client.take_items _ _
  constructor
  · intro hinited
    have hstep := step_byteRequest_of_uninit (fun _ => rfl) hseq hitems hinited
    exact runSteps_wait_after_response (n := 1) (es := [.req (encode (.wrcmd cmd)), .resp .uninit])
      (c := .uninit) (runSteps_succ hstep 0) rfl hseq hhang rfl htaken
  · intro hinited
    set o := outcome s (xferPlan cmd 0 s.bl) with ho
    set u := start .xfer (latchByte cmd 0 (takeRequest (encode (.wrcmd cmd)) (.wait ms :: rest) s))
    have hrun : runSteps (1 + o.1.length) s = .next (answered .xfer o.2 (perform o.1 u)) :=
      runSteps_byteRequest_answered (fun _ => rfl) hseq hitems hhang hinited ho.symm
    have htrace : (perform o.1 u).trace = s.trace ++ ([.req (encode (.wrcmd cmd))] : List Event) ++ o.1 :=
      perform_outcome_trace u (xferPlan cmd 0 s.bl)
    have hemits : Emits s (answered .xfer o.2 (perform o.1 u))
        (.req (encode (.wrcmd cmd)) :: o.1 ++ ([.resp o.2] : List Event)) := by
      simp [Emits, htrace]
    have hreturns : (answered .xfer o.2 (perform o.1 u)).env.hangAfter = none := by
      rw [answered_env]
      exact perform_hangAfter (s := u) hhang o.1
    have hclient : (answered .xfer o.2 (perform o.1 u)).client = (s.client.take (.wait ms :: rest)).onResponse o.2 := by
      rw [answered_client, perform_client]
      rfl
    obtain ⟨t, ht, hadd⟩ := runSteps_wait_after_response hrun hemits (answered_seq _ _ _) hreturns hclient htaken
    exact ⟨t, ht, by simpa using hadd⟩

/-- Settles O53: the two commands are bytes with a wait right behind them. -/
theorem clearAndHomeWaitUnconditionally : Obligations.ClearAndHomeWaitUnconditionally :=
  ⟨fun _ => ⟨rfl, rfl⟩, fun _ _ => ⟨rfl, rfl⟩,
    fun _ _ _ _ hseq hitems hhang => command_then_wait hseq hitems hhang, by decide, by decide⟩

/-! ### `INITIALIZE` that fails at its `INIT` -/

/-- R158: what is left of an `INITIALIZE` behind its `INIT`. -/
def bringUpAfterInit (p : ClientParams) : List ClientItem := (expandBringUp p).tail

/-- R158: a client with nothing left of a call begins the `INITIALIZE` that is next on its list. -/
theorem Client.turn_of_bringUp {k : Client} {rest : List ClientCall} (hrunning : k.running = false)
    (hcalls : k.calls = .bringUp :: rest) : k.turn = { k with calls := rest }.begin .bringUp := by
  simp [Client.turn, hrunning, hcalls]

/-- R158, R166: no wait stands right behind the `INIT`, so an `INITIALIZE` whose `INIT` fails has nothing left, and its code is
the next thing the client returns. -/
theorem Client.bringUp_init_fails (k : Client) :
    (((k.begin .bringUp).take (bringUpAfterInit k.params)).onResponse .busFail).items = [] ∧
    (((k.begin .bringUp).take (bringUpAfterInit k.params)).onResponse .busFail).turn =
      { k with
        items := []
        moves := []
        running := false
        code := .busFail
        returns := k.returns ++ [.busFail] } := ⟨rfl, rfl⟩

/-- Settles O48: by the moves of the five requests; and by three parts of the run, the turn that begins the call, its `INIT` and
the turn that returns its code. -/
theorem initializeMovesTheCursorByItsClear : Obligations.InitializeMovesTheCursorByItsClear := by
  refine ⟨fun k a b c d e => ⟨rfl, rfl, rfl, rfl, rfl⟩, ?_⟩
  intro s rest hseq hitems hrunning hcalls hhang hfail
  set plan := initPlan s.bl s.params.tInit1Ms s.params.tInit2Ms
  set o := outcome s plan with ho
  set k : Client := { s.client with calls := rest }
  set u := acceptedInit (bringUpAfterInit k.params) (clientTurn s)
  set v := answered .init o.2 (perform o.1 u)
  have hbegin : step s = .next (clientTurn s) := step_turn hseq hitems
  have hbegun : (clientTurn s).client = k.begin .bringUp := Client.turn_of_bringUp hrunning hcalls
  have hoffered : (clientTurn s).client.items = .request (encode .init) :: bringUpAfterInit k.params := by
    rw [hbegun]
    rfl
  have hinit : runSteps (1 + o.1.length) (clientTurn s) = .next v :=
    runSteps_initRequest (s := clientTurn s) hseq hoffered hhang rfl
  obtain ⟨hnothingLeft, hreturned⟩ := Client.bringUp_init_fails k
  have hclient : v.client = ((k.begin .bringUp).take (bringUpAfterInit k.params)).onResponse .busFail := by
    rw [answered_client, perform_client, hfail, ← hbegun]
    rfl
  have hreturn : step v = .next (clientTurn v) := step_turn (answered_seq _ _ _) (by rw [hclient, hnothingLeft])
  have htrace : (perform o.1 u).trace = s.trace ++ ([.req 0x200] : List Event) ++ o.1 :=
    perform_outcome_trace u plan
  have hemits : (clientTurn v).trace =
      s.trace ++ ([.req 0x200] : List Event) ++ o.1 ++ ([.resp .busFail] : List Event) := by
    rw [clientTurn_trace, answered_trace, htrace, hfail]
  refine ⟨clientTurn v, ?_, ?_⟩
  · rw [show 3 + o.1.length = (1 + o.1.length + 1) + 1 by omega, runSteps_succ hbegin, runSteps_add hinit,
      runSteps_succ hreturn, runSteps_zero]
  · rw [clientTurn_client, hclient, hreturned]
    exact ⟨rfl, rfl, rfl, rfl, by simpa [Emits] using hemits⟩

end Sys2Proof.Machine
end

section
/-! ## Calls that expand alike (R165)

The block sees of its client only the items of the call in progress, and a call gives its items when it begins. So two clients
whose calls expand into the same items take the block through the same states; they may differ in the stored cursor and in what
is still to move it. -/

namespace Sys2Proof.Machine

open Sys2Proof.Safety

/-! ### What becomes of the client in a step, whatever client it is -/

section respondsAlike
variable (s : State) (op : Op) (i : Fin op.len)

theorem advance_withClient_eq (k : Client) : advance op i (withClient k s) = withClient k (advance op i s) := by
  unfold advance
  split
  · rfl
  · cases op <;> rfl

theorem afterWrite_withClient_onResponse (r : BusResult) :
    ∃ c, ∀ k, afterWrite op i r (withClient k s) = withClient (k.onResponse c) (afterWrite op i r s) := by
  have hpolicy : ∀ k, (withClient k s).params.policy = s.params.policy := fun _ => rfl
  simp only [afterWrite, hpolicy]
  split
  · exact ⟨.busFail, fun _ => rfl⟩
  · exact ⟨.ok, advance_withClient_eq s op i⟩
  · exact ⟨.ok, advance_withClient_eq s op i⟩

/-- R63, R166: a micro-step does to the client what a response does, and its code is the same for every client. -/
theorem runMicroStep_withClient_onResponse :
    ∃ c, ∀ k, runMicroStep op i (withClient k s) = withClient (k.onResponse c) (runMicroStep op i s) := by
  have hhung : ∀ k, (withClient k s).hung = s.hung := fun _ => rfl
  simp only [runMicroStep, hhung]
  split
  · exact ⟨.ok, fun _ => rfl⟩
  · split
    · next n m en _ =>
      exact afterWrite_withClient_onResponse (busWrite (writeWord n m en s) (s.answer 0) s) op i (s.answer 0)
    · next d _ => exact ⟨.ok, advance_withClient_eq (delay (d.value s) s) op i⟩

end respondsAlike

theorem acceptByte_withClient_onResponse (s : State) (rs : Bit) (b : Byte) :
    ∃ c, ∀ k, acceptByte rs b (withClient k s) = withClient (k.onResponse c) (acceptByte rs b s) := by
  have hinited : ∀ k, (withClient k s).inited = s.inited := fun _ => rfl
  simp only [acceptByte, hinited]
  split
  · exact ⟨.ok, fun _ => rfl⟩
  · exact ⟨.uninit, fun _ => rfl⟩

/-- R63, R166: so does the meaning of a request. -/
theorem exec_withClient_onResponse (i : Instr) (s : State) :
    ∃ t c, ∀ k, exec i (withClient k s) = .next (withClient (k.onResponse c) t) := by
  cases i with
  | wrcmd b =>
    obtain ⟨c, h⟩ := acceptByte_withClient_onResponse s 0 b
    exact ⟨_, c, fun k => congrArg _ (h k)⟩
  | wrdata b =>
    obtain ⟨c, h⟩ := acceptByte_withClient_onResponse s 1 b
    exact ⟨_, c, fun k => congrArg _ (h k)⟩
  | init => exact ⟨start .init (beginInit s.clearInited), .ok, fun _ => rfl⟩
  | setbl v => exact ⟨start .setbl (setBacklight v s), .ok, fun _ => rfl⟩

/-- R25, R166: so does the acceptance of a request word, which the client gives away first. -/
theorem accept_withClient_onResponse (q : RequestWord) (rest : List ClientItem) (s : State) :
    ∃ t c, ∀ k, accept q rest (withClient k s) = .next (withClient ((k.take rest).onResponse c) t) := by
  have htake : ∀ k, takeRequest q rest (withClient k s) = withClient (k.take rest) (takeRequest q rest s) := fun _ => rfl
  simp only [accept, htake]
  split
  · next i _ =>
    obtain ⟨t, c, h⟩ := exec_withClient_onResponse i (takeRequest q rest s)
    exact ⟨t, c, fun k => h (k.take rest)⟩
  · exact ⟨raise .illegalReq (takeRequest q rest s), .illegalReq, fun _ => rfl⟩

/-! ### The two clients -/

/-- The clients offer the same items: those left of the call in progress, and those of the calls not begun. They have the same
codes to return. Nothing is said of their stored cursors. -/
structure Client.OffersAlike (k k' : Client) : Prop where
  params  : k'.params = k.params
  items   : k'.items = k.items
  calls   : k'.calls.map (ClientCall.expand k.params) = k.calls.map (ClientCall.expand k.params)
  running : k'.running = k.running
  code    : k'.code = k.code
  returns : k'.returns = k.returns

namespace Client.OffersAlike

variable {k k' : Client} (h : k.OffersAlike k')
include h

/-- R166: both calls keep the same waits and the same code. -/
theorem onResponse (c : Response) : (k.onResponse c).OffersAlike (k'.onResponse c) := by
  obtain ⟨hparams, hitems, hcalls, hrunning, hcode, hreturns⟩ := h
  by_cases hc : c = .ok
  · subst hc
    exact ⟨hparams, hitems, hcalls, hrunning, hcode, hreturns⟩
  · rw [Client.onResponse_of_ne_ok k hc, Client.onResponse_of_ne_ok k' hc]
    exact ⟨hparams, by simp only [hitems], hcalls, hrunning, by simp only [hcode], hreturns⟩

/-- The request's move of the stored cursor is not seen. -/
theorem take (rest : List ClientItem) : (k.take rest).OffersAlike (k'.take rest) := by
  obtain ⟨hparams, -, hcalls, hrunning, hcode, hreturns⟩ := h
  exact ⟨by simpa, by simp, by simpa, by simpa, by simpa, by simpa⟩

/-- The clients take turns alike: each returns the same code, or begins a call with the same items, or has nothing to do. -/
theorem turn : k.turn.OffersAlike k'.turn := by
  obtain ⟨hparams, hitems, hcalls, hrunning, hcode, hreturns⟩ := h
  cases hk : k.running with
  | true =>
    simp only [Client.turn, hrunning, hk, if_true]
    exact ⟨hparams, hitems, hcalls, rfl, hcode, by simp only [hreturns, hcode]⟩
  | false =>
    cases hlist : k.calls with
    | nil =>
      have hlist' : k'.calls = [] := by simpa [hlist] using hcalls
      simp only [Client.turn, hrunning, hk, hlist, hlist', Bool.false_eq_true, if_false]
      exact ⟨hparams, hitems, hcalls, hrunning, hcode, hreturns⟩
    | cons call rest =>
      rw [hlist, List.map_cons] at hcalls
      obtain ⟨call', rest', hlist', hcall, hrest⟩ := List.map_eq_cons_iff.1 hcalls
      simp only [Client.turn, hrunning, hk, hlist, hlist', Bool.false_eq_true, if_false]
      exact ⟨hparams, by simp [hparams, hcall], hrest, rfl, rfl, hreturns⟩

end Client.OffersAlike

/-- Both go on, to the same state but for clients that offer alike. -/
def StepsAlike (o p : Host.Outcome State Fault Refusal) : Prop :=
  ∃ t k k', o = .next (withClient k t) ∧ p = .next (withClient k' t) ∧ k.OffersAlike k'

/-- R25, R63: a step reads of the client no more than the item it offers. -/
theorem step_offersAlike {k k' : Client} (h : k.OffersAlike k') (s : State) :
    StepsAlike (step (withClient k s)) (step (withClient k' s)) := by
  cases hseq : s.seq with
  | run op i =>
    obtain ⟨c, e⟩ := runMicroStep_withClient_onResponse s op i
    rw [step_run (s := withClient k s) hseq, step_run (s := withClient k' s) hseq, e, e]
    exact ⟨_, _, _, rfl, rfl, h.onResponse c⟩
  | idle =>
    rcases hitems : k.items with _ | ⟨_ | ms, rest⟩
    · rw [step_turn (s := withClient k s) hseq hitems, step_turn (s := withClient k' s) hseq (h.items.trans hitems)]
      exact ⟨s, _, _, rfl, rfl, h.turn⟩
    · next q =>
      obtain ⟨t, c, e⟩ := accept_withClient_onResponse q rest s
      rw [step_request (s := withClient k s) hseq hitems,
        step_request (s := withClient k' s) hseq (h.items.trans hitems), e, e]
      exact ⟨t, _, _, rfl, rfl, (h.take rest).onResponse c⟩
    · rw [step_wait (s := withClient k s) hseq hitems, step_wait (s := withClient k' s) hseq (h.items.trans hitems)]
      have hhung : ∀ k, (withClient k s).hung = s.hung := fun _ => rfl
      simp only [clientWait, hhung]
      split
      · exact ⟨s, k, k', rfl, rfl, h⟩
      · exact ⟨delay ms s, _, _, rfl, rfl, { h with items := rfl }⟩

/-- R165: clients whose calls expand alike take the block through the same states. -/
theorem runSteps_offersAlike {k k' : Client} (h : k.OffersAlike k') (n : Nat) (s : State) :
    StepsAlike (runSteps n (withClient k s)) (runSteps n (withClient k' s)) := by
  induction n generalizing k k' s with
  | zero => exact ⟨s, k, k', rfl, rfl, h⟩
  | succ n ih =>
    obtain ⟨t, l, l', e, e', hl⟩ := step_offersAlike h s
    rw [runSteps_succ e, runSteps_succ e']
    exact ih hl t

/-- R161, R163: the two macros expand into the two words issued directly. -/
theorem expand_roundTrip (p : ClientParams) :
    [ClientCall.raw 0x080, .raw 0x141].map (ClientCall.expand p) =
      [ClientCall.moveCursor 0 0, .putChar 0x41].map (ClientCall.expand p) := rfl

/-- Settles O56: the clients differ in their calls, which expand alike. -/
theorem roundTripOfTheMacros : Obligations.RoundTripOfTheMacros := by
  intro s n
  obtain ⟨t, k, k', hk, hk', halike⟩ := runSteps_offersAlike
    (k := { s.client with items := [], running := false, calls := [.moveCursor 0 0, .putChar 0x41] })
    (k' := { s.client with items := [], running := false, calls := [.raw 0x080, .raw 0x141] })
    ⟨rfl, rfl, expand_roundTrip _, rfl, rfl, rfl⟩ n s
  exact ⟨_, _, hk, hk', rfl, rfl, rfl, halike.returns.symm⟩

end Sys2Proof.Machine
end

section
/-! ## Refusals at acceptance (R182, R183, R192) -/

namespace Sys2Proof.Machine

open Sys2Proof.Safety

/-- R185: a refusal at acceptance adds its response to the trace and the client learns the code; nothing else changes. -/
theorem raise_refusal_of_idle {f : Failure} (hf : f = .uninit ∨ f = .illegalReq) {s : State} (hseq : s.seq = .idle) :
    raise f s = { s with
      trace := s.trace ++ ([.resp f.code] : List Event)
      client := s.client.onResponse f.code } := by
  rcases hf with rfl | rfl <;> rw [raise, respond, ← hseq]

/-- R182: in state `UNINIT` an idle block refuses a byte. -/
theorem acceptByte_of_uninit {s : State} (hinited : s.inited = false) (hseq : s.seq = .idle) (rs : Bit) (b : Byte) :
    acceptByte rs b s = { s with
      trace := s.trace ++ ([.resp .uninit] : List Event)
      client := s.client.onResponse .uninit } :=
  (if_neg (by simp [hinited])).trans (raise_refusal_of_idle (.inl rfl) hseq)

/-- Settles O17: both byte requests are the one acceptance of a byte; `INIT` and `SETBL` start whatever `INITED` is. -/
theorem byteRequestBeforeInitIsRefused : Obligations.ByteRequestBeforeInitIsRefused :=
  ⟨fun b _ hinited hseq => ⟨congrArg Host.Outcome.next (acceptByte_of_uninit hinited hseq 0 b),
      congrArg Host.Outcome.next (acceptByte_of_uninit hinited hseq 1 b)⟩,
    fun v s => ⟨_, _, initIsAlwaysAccepted s, rfl, rfl, setblIsAlwaysAccepted v s, rfl, rfl⟩⟩

/-- R183: the acceptance of a reserved word is its refusal. -/
theorem accept_of_illegal {q : RequestWord} {why : Reserved} (h : decode q = .illegal why) (rest : List ClientItem)
    (s : State) : accept q rest s = .next (raise .illegalReq (takeRequest q rest s)) := by
  simp only [accept, h]

/-- Settles O18: the word is taken, then refused; the change of the client's stored cursor as it gives the word away is the
model's choice (log 10). -/
theorem reservedWordIsRefused : Obligations.ReservedWordIsRefused := by
  intro q why rest s hdecode hseq hitems
  rw [step_request hseq hitems, accept_of_illegal hdecode,
    raise_refusal_of_idle (s := takeRequest q rest s) (.inr rfl) hseq]
  simp [takeRequest, Failure.code]

/-- Settles O19, by the four things an acceptance can do. -/
theorem operatingStateDecidesWhatExecutes : Obligations.OperatingStateDecidesWhatExecutes := by
  intro i s _
  obtain ⟨t, h⟩ := exec_next i s
  refine ⟨t, h, ?_⟩
  rcases exec_cases h with ⟨b, rs, hi, hinited, rfl⟩ | ⟨b, hi, hinited, rfl⟩ | ⟨rfl, rfl⟩ | ⟨v, rfl, rfl⟩
  · simp [executes_byte hi, hinited, busy_eq_true]
  · simp [executes_byte hi, hinited, busy_eq_false, Emits, Failure.code]
  · simp [executes_init, busy_eq_true]
  · simp [executes_setbl, busy_eq_true]

end Sys2Proof.Machine
end

section
/-! ## A failed bus write under `propagate`, and a hang (R184, R198) -/

namespace Sys2Proof.Machine

open Sys2Proof.Safety

/-- R184: the step of a bus write that fails under `propagate` is the entry of `BUS_FAIL`. -/
theorem step_failed_write {s : State} {op : Op} {i : Fin op.len} {n : NibbleSource} {m : ModeSource} {en : Bit}
    (hseq : s.seq = .run op i) (hmicro : microStep op i = .write n m en) (hhung : s.hung = false)
    (hfail : s.answer 0 = .fail) (hpolicy : s.params.policy = .propagate) :
    step s = .next (raise .busFail (busWrite (writeWord n m en s) .fail s)) := by
  rw [step_run hseq, runMicroStep, if_neg (by simp [hhung]), hmicro]
  simp only [hfail, afterWrite, busWrite_params, hpolicy]

/-- Settles O28: the failed write leaves no known value in `PORT` and touches no other address; the entry clears `INITED`. -/
theorem failedWriteEndsTheOperation : Obligations.FailedWriteEndsTheOperation := by
  intro op i n m en s hseq hmicro hhung hfail hpolicy
  refine ⟨_, step_failed_write hseq hmicro hhung hfail hpolicy, ?_, rfl, rfl, ?_, rfl, rfl, rfl, rfl, fun a ha => ?_⟩
  · exact (port_congr (raise_mem _ _) (raise_params _ _)).trans (busWrite_port _ .fail s)
  · simp [Emits, Failure.code]
  · exact (portAt_congr (raise_mem _ _) a).trans (busWrite_portAt _ .fail s ha)

/-- R198: a busy block whose primitive does not return stays as it is. -/
theorem step_hung {s : State} (hbusy : s.busy = true) (hhung : s.hung = true) : step s = .next s := by
  obtain ⟨op, i, hseq⟩ := exists_run_of_busy hbusy
  rw [step_run hseq, runMicroStep, if_pos hhung]

/-- Settles O31, by induction on the number of steps. -/
theorem hungBlockStaysForEver : Obligations.HungBlockStaysForEver := by
  intro s hbusy hhang n
  induction n with
  | zero => rfl
  | succ n ih => exact (runSteps_succ (step_hung hbusy (decide_eq_true hhang)) n).trans ih

end Sys2Proof.Machine
end

section
/-! ## The policy `ignore` (R186) -/

namespace Sys2Proof.Machine

open Sys2Proof.Safety

/-! ### Every micro-step is performed -/

/-- The event of what is planned, if its bus write has the result `r`. -/
def Planned.made (a : BusAddr) (r : BusResult) : Planned → Event
  | .write w => .bus a w r
  | .wait t => .wait t

/-- R186: under `ignore` the events are those of the plan, one for one, whatever the results are. -/
theorem carryOut_ignore_events (a : BusAddr) (answer : Nat → BusResult) (k : Nat) (plan : List Planned) :
    List.Forall₂ (fun p e => ∃ j, e = Planned.made a (answer j) p) plan (carryOut .ignore a answer k plan).1 := by
  induction plan generalizing k with
  | nil => exact .nil
  | cons p rest ih =>
    cases p with
    | write w =>
      rw [carryOut, if_neg (by simp)]
      exact .cons ⟨k, rfl⟩ (ih (k + 1))
    | wait t => exact .cons ⟨k, rfl⟩ (ih k)

/-- R186: under `ignore` the response is `OK`. -/
theorem carryOut_ignore_response (a : BusAddr) (answer : Nat → BusResult) (k : Nat) (plan : List Planned) :
    (carryOut .ignore a answer k plan).2 = .ok := by
  induction plan generalizing k with
  | nil => rfl
  | cons p rest ih =>
    cases p with
    | write w =>
      rw [carryOut, if_neg (by simp)]
      exact ih (k + 1)
    | wait t => exact ih k

section ignored
variable {s : State} (hpolicy : s.params.policy = .ignore) (op : Op)
include hpolicy

/-- R186: the events of an operation under `ignore` are those of its micro-program, one for one. -/
theorem outcome_ignore_events :
    List.Forall₂ (fun m e => ∃ j, e = Planned.made s.addr (s.answer j) (MicroStep.planned s m)) (microProgram op)
      (outcome s (opPlan s op)).1 := by
  rw [opPlan_eq_microProgram, outcome, hpolicy]
  exact List.forall₂_map_left_iff.1 (carryOut_ignore_events s.addr s.answer 0 _)

theorem outcome_ignore_length : (outcome s (opPlan s op)).1.length = op.len :=
  (outcome_ignore_events hpolicy op).length_eq.symm.trans (microProgram_length op)

theorem outcome_ignore_response : (outcome s (opPlan s op)).2 = .ok := by
  rw [outcome, hpolicy]
  exact carryOut_ignore_response s.addr s.answer 0 _

/-- R186: under `ignore` event `i` is that of micro-step `i`. -/
theorem outcome_ignore_event (i : Fin op.len) :
    ∃ j, (outcome s (opPlan s op)).1[i.val]? =
      some (Planned.made s.addr (s.answer j) (MicroStep.planned s (microStep op i))) := by
  have hlt : i.val < (outcome s (opPlan s op)).1.length := (outcome_ignore_length hpolicy op).symm ▸ i.isLt
  obtain ⟨j, hj⟩ := (outcome_ignore_events hpolicy op).get ((microProgram_length op).symm ▸ i.isLt) hlt
  exact ⟨j, (List.getElem?_eq_getElem hlt).trans (congrArg some hj)⟩

end ignored

/-- R27: an operation that answers `OK` leaves `INITED`, but for `INIT`, which sets it. -/
theorem initedAfter_ok (op : Op) (before : Bool) : initedAfter op .ok before = (before || decide (op = .init)) := by
  cases op <;> simp [initedAfter]

/-! ### No acceptance reads the policy -/

/-- `s` with another policy. -/
def withPolicy (pol : BusErrPolicy) (s : State) : State := { s with params := { s.params with policy := pol } }

section policy
variable (pol : BusErrPolicy) {s t : State}

theorem acceptByte_withPolicy (rs : Bit) (b : Byte) (s : State) :
    acceptByte rs b (withPolicy pol s) = withPolicy pol (acceptByte rs b s) := by
  rcases acceptByte_cases rs b s with ⟨hinited, e⟩ | ⟨hinited, e⟩
  · rw [e]
    exact acceptByte_of_inited (s := withPolicy pol s) hinited rs b
  · rw [e, acceptByte, if_neg (by simp [withPolicy, hinited])]
    rfl

theorem exec_withPolicy {i : Instr} (h : exec i s = .next t) : exec i (withPolicy pol s) = .next (withPolicy pol t) := by
  cases i with
  | wrcmd b =>
    obtain rfl : acceptByte 0 b s = t := Host.Outcome.next.inj h
    exact congrArg Host.Outcome.next (acceptByte_withPolicy pol 0 b s)
  | wrdata b =>
    obtain rfl : acceptByte 1 b s = t := Host.Outcome.next.inj h
    exact congrArg Host.Outcome.next (acceptByte_withPolicy pol 1 b s)
  | init => cases h; rfl
  | setbl v => cases h; rfl

/-- R186: the acceptance of a word, a refused one too, does not depend on the policy. -/
theorem accept_withPolicy {q : RequestWord} {rest : List ClientItem} (h : accept q rest s = .next t) :
    accept q rest (withPolicy pol s) = .next (withPolicy pol t) := by
  cases hdecode : decode q with
  | request i =>
    rw [accept_of_decode hdecode] at h ⊢
    exact exec_withPolicy pol h
  | illegal why =>
    rw [accept_of_illegal hdecode] at h ⊢
    obtain rfl := Host.Outcome.next.inj h
    rfl

end policy

/-- Settles O29: the run of the plan is O22's, and under `ignore` the plan is carried out to its end. -/
theorem ignorePerformsEveryMicroStep : Obligations.IgnorePerformsEveryMicroStep := by
  refine ⟨fun op s hseq hhang hpolicy => ?_, fun q rest s t pol => accept_withPolicy pol⟩
  obtain ⟨-, t, hrun, hemits, hidle, -, -, -, -, hinited, hport, -⟩ := acceptedOperationRunsItsPlan op s hseq hhang
  have hlen := outcome_ignore_length hpolicy op
  rw [hlen] at hrun
  rw [outcome_ignore_response hpolicy op] at hemits hinited
  refine ⟨t, hrun, hemits, hlen, fun i => ?_, hidle, hinited.trans (initedAfter_ok op _), hport⟩
  obtain ⟨j, hevent⟩ := outcome_ignore_event hpolicy op i
  constructor
  · intro n m en hmicro
    rw [hmicro] at hevent
    exact ⟨j, hevent⟩
  · intro d hmicro
    rw [hmicro] at hevent
    exact hevent

end Sys2Proof.Machine
end

section
/-! ## An external reset (R210, R198) -/

namespace Sys2Proof.Machine

open Sys2Proof.Safety

/-- Settles O11: what the display loses is what an `INIT` had held back, nothing if none runs (log 9). -/
theorem externalResetPutsTheBlockInItsResetState : Obligations.ExternalResetPutsTheBlockInItsResetState := by
  intro s
  have hunknown : ∀ e ∈ s.display.held.map LatchEvent.weaken, e = .uncertain := by simp
  have hnone : (∀ held, s.display.phase ≠ .initialising held) → s.display.held.map LatchEvent.weaken = [] := by
    intro hphase
    rw [Display.held_of_not_initialising hphase, List.map_nil]
  exact ⟨rfl, rfl, rfl, rfl, externalReset_port s, rfl, rfl, rfl, rfl, ⟨_, rfl, hunknown, hnone⟩, rfl, rfl, rfl,
    fun _ => externalReset_portAt s⟩

end Sys2Proof.Machine
end

section
/-! ## Before the first bus write after a reset (R211) -/

namespace Sys2Proof.Machine

open Sys2Proof.Safety

/-- R211: construction writes nothing. -/
theorem construct_untouched (p : Params) (c : ClientParams) : Untouched (State.construct p c) where
  noBus := by simp
  port := construct_port p c
  uninit := rfl
  before := .inl rfl

/-- R211: nor does an external reset. -/
theorem externalReset_untouched (s : State) : Untouched s.externalReset where
  noBus _ _ _ := List.not_mem_nil
  port := externalReset_port s
  uninit := rfl
  before := .inl rfl

section untouched
variable {s t : State} (hs : Untouched s)
include hs

/-- R211: what makes no bus write leaves the block untouched, if it is still in `UNINIT` and before a first write. -/
theorem untouched_of_quiet {es : List Event} (hemits : Emits s t es) (hquiet : ∀ a w r, Event.bus a w r ∉ es)
    (hmem : t.mem = s.mem) (hparams : t.params = s.params) (huninit : t.inited = false)
    (hbefore : t.seq = .idle ∨ t.seq = .run .init ⟨0, Op.len_pos .init⟩ ∨ t.seq = .run .setbl ⟨0, Op.len_pos .setbl⟩) :
    Untouched t where
  noBus a w r hevent := by
    rw [hemits, List.mem_append] at hevent
    exact hevent.elim (hs.noBus a w r) (hquiet a w r)
  port := (port_congr hmem hparams).trans hs.port
  uninit := huninit
  before := hbefore

/-- R211: the micro-step an untouched block is at is the first one of an `INIT` or a `SETBL`. -/
theorem untouched_at_first_microStep {op : Op} {i : Fin op.len} (hseq : s.seq = .run op i) :
    (op = .init ∨ op = .setbl) ∧ i = ⟨0, op.len_pos⟩ := by
  rcases hs.before with h | h | h <;> cases hseq.symm.trans h
  · exact ⟨.inl rfl, rfl⟩
  · exact ⟨.inr rfl, rfl⟩

/-- R211: the bus write of an untouched block is that of such a micro-step, with its word. -/
theorem first_write_of_untouched {op : Op} {i : Fin op.len} {n : NibbleSource} {m : ModeSource} {en : Bit}
    (hseq : s.seq = .run op i) (hmicro : microStep op i = .write n m en) {r : BusResult} {es : List Event}
    (hemits : Emits s t (.bus s.addr (writeWord n m en s) r :: es)) :
    ∃ (op : Op) (n : NibbleSource) (m : ModeSource) (en : Bit) (r : BusResult) (es : List Event),
      (op = .init ∨ op = .setbl) ∧ s.seq = .run op ⟨0, op.len_pos⟩ ∧ microStep op ⟨0, op.len_pos⟩ = .write n m en ∧
      Emits s t (.bus s.addr (writeWord n m en s) r :: es) := by
  obtain ⟨hop, rfl⟩ := untouched_at_first_microStep hs hseq
  exact ⟨op, n, m, en, r, es, hop, hseq, hmicro, hemits⟩

end untouched

/-- Settles O12, line by line of R25: in `UNINIT` no byte is accepted, and no operation begins with a delay. -/
theorem firstWriteAfterResetIsOfInitOrSetbl : Obligations.FirstWriteAfterResetIsOfInitOrSetbl := by
  refine ⟨construct_untouched, externalReset_untouched, fun s t hs h => ?_⟩
  have huninit := hs.uninit
  cases stepLine_of_step h with
  | hang => exact .inl hs
  | turn hseq =>
    exact .inl (untouched_of_quiet hs (es := []) (by simp [Emits]) (by simp) rfl rfl huninit (.inl hseq))
  | wait hseq ms rest =>
    exact .inl (untouched_of_quiet hs (es := [.wait ms]) rfl (by simp) rfl rfl huninit (.inl hseq))
  | refuse hseq q rest f hf =>
    exact .inl (untouched_of_quiet hs (es := [.req q, .resp f.code]) (by simp [Emits]) (by simp) (raise_mem _ _)
      (raise_params _ _) ((raise_refusal_inited hf _).trans huninit) (.inl rfl))
  | byte hseq q rest i b rs hdecode hop hinited => simp [huninit] at hinited
  | init hseq q rest =>
    exact .inl (untouched_of_quiet hs (es := [.req q]) rfl (by simp) rfl rfl rfl (.inr (.inl rfl)))
  | setbl hseq q rest =>
    exact .inl (untouched_of_quiet hs (es := [.req q]) rfl (by simp) rfl rfl huninit (.inr (.inr rfl)))
  | fail op i n m en hseq hmicro =>
    exact .inr (first_write_of_untouched hs hseq hmicro (r := .fail) (es := [.resp .busFail])
      (by simp [Emits, Failure.code]))
  | write op i n m en r hseq hmicro hgoes hlt =>
    exact .inr (first_write_of_untouched hs hseq hmicro (r := r) (es := []) (by simp [Emits, hlt]))
  | finish op i n m en r hseq hmicro =>
    exact .inr (first_write_of_untouched hs hseq hmicro (r := r) (es := [.resp .ok]) (by simp [Emits]))
  | delay op i d hseq hmicro =>
    obtain ⟨-, rfl⟩ := untouched_at_first_microStep hs hseq
    obtain ⟨-, hpos, -⟩ := isDelay_init op _ (congrArg MicroStep.isDelay hmicro)
    exact absurd hpos (Nat.lt_irrefl 0)

/-! ### The latch trace before the first completed `INIT` (R211, U14) -/

/-- A step that leaves the block in `UNINIT` completes no `INIT`, so it does not find the latch trace again. -/
theorem lost_of_uninit {s t : State} (h : step s = .next t) (hs : s.display.lost = true) (ht : t.inited = false) :
    t.display.lost = true := by
  by_contra hfound
  obtain ⟨-, hinited, -⟩ := found_by_completed_init h hs (by simpa using hfound)
  simp [ht] at hinited

/-- A run from a lost latch trace along which `INITED` stays 0 adds only latches of which nothing is known. -/
theorem runSteps_lost_latches {n : Nat} {s t : State} (hlost : s.display.lost = true) (hrun : runSteps n s = .next t)
    (huninit : ∀ m u, m ≤ n → runSteps m s = .next u → u.inited = false) :
    t.display.lost = true ∧ ∃ es, t.display.latches = s.display.latches ++ es ∧ ∀ e ∈ es, e = .uncertain := by
  induction n generalizing s with
  | zero =>
    obtain rfl : s = t := Host.Outcome.next.inj hrun
    exact ⟨hlost, [], by simp⟩
  | succ n ih =>
    obtain ⟨u, hu⟩ := step_next s
    have hlost' : u.display.lost = true := lost_of_uninit hu hlost (huninit 1 u (by omega) (runSteps_succ hu 0))
    obtain ⟨es, hes, huncertain⟩ := lost_latches_uncertain hu hlost'
    rw [runSteps_succ hu] at hrun
    obtain ⟨htlost, es', hes', huncertain'⟩ := ih hlost' hrun
      (fun m v hm hv => huninit (m + 1) v (by omega) ((runSteps_succ hu m).trans hv))
    refine ⟨htlost, es ++ es', by rw [hes', hes, List.append_assoc], fun e he => ?_⟩
    exact (List.mem_append.1 he).elim (huncertain e) (huncertain' e)

/-- Settles O13, by induction on the number of steps; that an `INIT` cut short makes nothing known is the model's
reading (log 9). -/
theorem latchTraceIsUnknownBeforeTheFirstCompletedInit : Obligations.LatchTraceIsUnknownBeforeTheFirstCompletedInit :=
  ⟨fun _ _ => ⟨rfl, rfl⟩, fun _ => rfl, fun _ _ _ => runSteps_lost_latches⟩

end Sys2Proof.Machine
end

section
/-! ## What the client and the trace see of a step (R25) -/

namespace Sys2Proof.Machine

open Sys2Proof.Safety

/-- R12: the event of a primitive, which the client of the block does not see. -/
def Event.isCall : Event → Bool
  | .bus _ _ _ => true
  | .wait _    => true
  | .req _     => false
  | .resp _    => false

/-- R25: a micro-step performs primitives; then the operation goes on, or its response goes to the client. -/
theorem runMicroStep_emits {s : State} {op : Op} {i : Fin op.len} (hseq : s.seq = .run op i) :
    ∃ es, (∀ e ∈ es, e.isCall = true) ∧
      ((Emits s (runMicroStep op i s) es ∧ (runMicroStep op i s).seq ≠ .idle ∧
          (runMicroStep op i s).client = s.client) ∨
        ∃ c, Emits s (runMicroStep op i s) (es ++ ([.resp c] : List Event)) ∧ (runMicroStep op i s).seq = .idle ∧
          (runMicroStep op i s).client = s.client.onResponse c) := by
  rcases runMicroStep_next op i s with e | ⟨w, -, -, -, e⟩ | ⟨w, r, -, -, -, hlt, e⟩ | ⟨w, r, -, -, -, -, e⟩ |
    ⟨d, hlt, -, e⟩ <;> rw [e]
  · exact ⟨[], by simp, .inl ⟨by simp [Emits], by simp [hseq], rfl⟩⟩
  · exact ⟨[.bus s.addr w .fail], by simp [Event.isCall],
      .inr ⟨.busFail, by simp [Emits, Failure.code], rfl, by simp [Failure.code]⟩⟩
  · exact ⟨[.bus s.addr w r], by simp [Event.isCall], .inl ⟨rfl, by simp, rfl⟩⟩
  · exact ⟨[.bus s.addr w r], by simp [Event.isCall], .inr ⟨.ok, by simp [Emits], by simp, by simp⟩⟩
  · exact ⟨[.wait (d.value s)], by simp [Event.isCall], .inl ⟨rfl, by simp, rfl⟩⟩

/-- R25: the acceptance of a word starts its operation, or refuses it and the response goes to the client. -/
theorem accept_emits {q : RequestWord} {rest : List ClientItem} {s t : State} (h : accept q rest s = .next t) :
    (Emits s t [.req q] ∧ t.seq ≠ .idle ∧ t.client = s.client.take rest) ∨
    ∃ c, Emits s t [.req q, .resp c] ∧ t.seq = .idle ∧ t.client = (s.client.take rest).onResponse c := by
  rcases accept_cases h with ⟨why, -, rfl⟩ | ⟨b, -, -, rfl⟩ | ⟨b, -, -, rfl⟩ | ⟨b, -, -, rfl⟩ | ⟨-, rfl⟩ | ⟨v, -, rfl⟩
  · exact .inr ⟨.illegalReq, by simp [Emits, Failure.code], rfl, rfl⟩
  · exact .inr ⟨.uninit, by simp [Emits, Failure.code], rfl, rfl⟩
  all_goals exact .inl ⟨rfl, by simp, rfl⟩

end Sys2Proof.Machine
end

section
/-! ## The 2 ms after clear and home (R216, R159, R160)

Three things of a state matter: what the watch has read in the trace, whether the sequencer is idle, and the client's items. -/

namespace Sys2Proof.Machine

open Sys2Proof.Safety

/-! ### The items of the macros have their waits behind them -/

theorem clears_wrcmd (b : Byte) : clears (encode (.wrcmd b)) = (b == cmdClear || b == cmdHome) := by
  revert b; decide

theorem clears_wrdata (b : Byte) : clears (encode (.wrdata b)) = false := by
  revert b; decide

/-- R161: an address command has bit 7 set. -/
theorem clears_ddramCommand (a : Byte) : clears (encode (.wrcmd (cmdDdram ||| a))) = false := by
  revert a; decide

@[simp] theorem guarded_nil : guarded [] = true := rfl

/-- R216: a request that is no clear or home asks for nothing behind it. -/
theorem guarded_request {q : RequestWord} (h : clears q = false) (rest : List ClientItem) :
    guarded (.request q :: rest) = guarded rest := by
  simp [guarded, h]

/-- R216: the wait behind a clear or home. -/
theorem wait_of_guarded_request {q : RequestWord} {rest : List ClientItem} (h : guarded (.request q :: rest) = true) :
    (clears q = true → ∃ rest', rest = .wait clearWaitMs :: rest') ∧ guarded rest = true := by
  simp only [guarded, Bool.and_eq_true] at h
  obtain ⟨hhead, hrest⟩ := h
  refine ⟨fun hq => ?_, hrest⟩
  exact List.head?_eq_some_iff.1 (by simpa [hq] using hhead)

/-- R166: what a failed request leaves of a call is waits only. -/
theorem guarded_takeWhile_isWait (items : List ClientItem) : guarded (items.takeWhile ClientItem.isWait) = true := by
  induction items with
  | nil => rfl
  | cons i rest ih =>
    cases i with
    | request q => rfl
    | wait ms => exact ih

theorem guarded_onResponse {k : Client} (h : guarded k.items = true) (c : Response) :
    guarded (k.onResponse c).items = true := by
  by_cases hc : c = .ok
  · rwa [hc, Client.onResponse_ok]
  · rw [Client.onResponse_of_ne_ok k hc]
    exact guarded_takeWhile_isWait k.items

/-- R164: no character is a command. -/
theorem guarded_expandPutString (chs : List Nat) : guarded (expandPutString chs) = true := by
  induction chs with
  | nil => rfl
  | cons ch chs ih => exact (guarded_request (clears_wrdata (charByte ch)) _).trans ih

theorem bytesNoClear_iff (p : ClientParams) :
    bytesNoClear p = true ↔ clears (encode (.wrcmd p.fsByte)) = false ∧ clears (encode (.wrcmd p.dcByte)) = false ∧
      clears (encode (.wrcmd p.emByte)) = false := by
  simp [bytesNoClear, clears_wrcmd]

/-- R158: of the commands of `INITIALIZE` only its `CLEAR` is one, if its three bytes are none. -/
theorem guarded_expandBringUp {p : ClientParams} (h : bytesNoClear p = true) : guarded (expandBringUp p) = true := by
  obtain ⟨hfs, hdc, hem⟩ := (bytesNoClear_iff p).1 h
  calc guarded (expandBringUp p)
    _ = guarded (item (.wrcmd p.fsByte) :: item (.wrcmd p.dcByte) :: (expandClear ++ [item (.wrcmd p.emByte)])) :=
      guarded_request (by decide) _
    _ = guarded (item (.wrcmd p.dcByte) :: (expandClear ++ [item (.wrcmd p.emByte)])) := guarded_request hfs _
    _ = guarded (expandClear ++ [item (.wrcmd p.emByte)]) := guarded_request hdc _
    _ = guarded [item (.wrcmd p.emByte)] := rfl
    _ = true := guarded_request hem []

/-- R216: every call but one issued directly makes the wait behind its clear or home. -/
theorem guarded_expand {call : ClientCall} {p : ClientParams} (hmacro : isMacro call = true)
    (hbytes : bytesNoClear p = true) : guarded (call.expand p) = true := by
  cases call with
  | raw q => simp [isMacro] at hmacro
  | wait ms => rfl
  | bringUp => exact guarded_expandBringUp hbytes
  | clear => rfl
  | home => rfl
  | moveCursor r c => exact guarded_request (clears_ddramCommand _) []
  | putChar ch => exact guarded_request (clears_wrdata _) []
  | putString chs => exact guarded_expandPutString chs

/-! ### The client still has only macros to call -/

/-- R216: the calls to come are macros and waits, and the bytes of `INITIALIZE` are no clear or home. -/
def Client.CallsMacros (k : Client) : Prop := k.calls.all isMacro = true ∧ bytesNoClear k.params = true

namespace Client.CallsMacros

variable {k : Client} (h : k.CallsMacros)
include h

theorem onResponse (c : Response) : (k.onResponse c).CallsMacros := by
  rwa [CallsMacros, onResponse_calls, onResponse_params]

theorem take (rest : List ClientItem) : (k.take rest).CallsMacros := by
  rwa [CallsMacros, take_calls, take_params]

/-- In its turn a client with nothing left of a call still has nothing, or has the items of the call it begins. -/
theorem turn (hitems : k.items = []) : k.turn.CallsMacros ∧ guarded k.turn.items = true := by
  obtain ⟨hcalls, hbytes⟩ := h
  unfold Client.turn
  split
  · exact ⟨⟨hcalls, hbytes⟩, by simp [hitems]⟩
  · split
    · exact ⟨⟨hcalls, hbytes⟩, by simp [hitems]⟩
    · next call rest hlist =>
      rw [hlist, List.all_cons, Bool.and_eq_true] at hcalls
      exact ⟨⟨hcalls.2, hbytes⟩, guarded_expand hcalls.1 hbytes⟩

end Client.CallsMacros

end Sys2Proof.Machine

namespace Sys2Proof.Safety

open Sys2Proof.Machine

/-! ### What the watch has read, and the waits to come -/

theorem watch_append (tr es : List Event) : watch (tr ++ es) = es.foldl ClearWatch.see (watch tr) := List.foldl_append

theorem watch_of_emits {s t : State} {es : List Event} (h : Emits s t es) :
    watch t.trace = es.foldl ClearWatch.see (watch s.trace) := by rw [h, watch_append]

/-- R216: the rule was kept, and what is owed, or will be when the running request is answered, stands next among the items. -/
structure ClearWatch.Covered (m : ClearWatch) (q : Seq) (items : List ClientItem) : Prop where
  kept  : m.kept = true
  guard : guarded items = true
  idle  : q = .idle → m.last = none ∧ (m.owed = 0 ∨ ∃ t rest, items = .wait t :: rest ∧ m.owed ≤ t)
  busy  : q ≠ .idle → ∃ w, m.last = some w ∧ m.owed = 0 ∧
            (clears w = true → ∃ rest, items = .wait clearWaitMs :: rest)

theorem macroClient_iff (s : State) :
    MacroClient s ↔ s.client.CallsMacros ∧ (watch s.trace).Covered s.seq s.client.items := by
  constructor
  · rintro ⟨hkept, hcalls, hbytes, hguard, hidle, hbusy⟩
    exact ⟨⟨hcalls, hbytes⟩, hkept, hguard, hidle, fun h => hbusy (busy_eq_true.2 h)⟩
  · rintro ⟨⟨hcalls, hbytes⟩, hkept, hguard, hidle, hbusy⟩
    exact ⟨hkept, hcalls, hbytes, hguard, hidle, fun h => hbusy (busy_eq_true.1 h)⟩

/-- R216: while nothing is owed a primitive neither breaks the rule nor changes what the watch knows. -/
theorem ClearWatch.foldl_calls {m : ClearWatch} (howed : m.owed = 0) {es : List Event}
    (hes : ∀ e ∈ es, e.isCall = true) : es.foldl ClearWatch.see m = m := by
  induction es with
  | nil => rfl
  | cons e es ih =>
    have hsee : m.see e = m := by
      have hcall := hes e List.mem_cons_self
      obtain ⟨last, owed, kept⟩ := m
      obtain rfl : owed = 0 := howed
      cases e with
      | bus a w r => simp [ClearWatch.see]
      | wait ms => simp [ClearWatch.see]
      | req q => simp [Event.isCall] at hcall
      | resp c => simp [Event.isCall] at hcall
    rw [List.foldl_cons, hsee]
    exact ih fun e' he' => hes e' (List.mem_cons_of_mem e he')

namespace ClearWatch.Covered

variable {m : ClearWatch} {q q' : Seq} {items rest : List ClientItem}

/-- While an operation runs nothing is owed. -/
theorem calls (h : m.Covered q items) (hq : q ≠ .idle) {es : List Event} (hes : ∀ e ∈ es, e.isCall = true) :
    es.foldl ClearWatch.see m = m := by
  obtain ⟨w, -, howed, -⟩ := h.busy hq
  exact ClearWatch.foldl_calls howed hes

/-- The sequencer moves on. -/
theorem next (h : m.Covered q items) (hq : q ≠ .idle) (hq' : q' ≠ .idle) : m.Covered q' items :=
  ⟨h.kept, h.guard, fun e => absurd e hq', fun _ => h.busy hq⟩

/-- A request is taken when nothing is owed, and a clear or home has its wait behind it. -/
theorem accepted {w : RequestWord} (h : m.Covered .idle (.request w :: rest)) (hq : q ≠ .idle) :
    (m.see (.req w)).Covered q rest := by
  obtain ⟨hwait, hguard⟩ := wait_of_guarded_request h.guard
  obtain ⟨-, howed⟩ := h.idle rfl
  have hzero : m.owed = 0 := by simpa using howed
  exact ⟨h.kept, hguard, fun e => absurd e hq, fun _ => ⟨w, rfl, hzero, hwait⟩⟩

/-- R159, R160, R166: after the response to a clear or home its wait stands next, whatever the response is. -/
theorem answered {k : Client} (h : m.Covered q k.items) (hq : q ≠ .idle) (c : Response) :
    (m.see (.resp c)).Covered .idle (k.onResponse c).items := by
  obtain ⟨w, hlast, howed, hwait⟩ := h.busy hq
  have howed' : (m.see (.resp c)).owed = if clears w = true then clearWaitMs else 0 := by
    simp [ClearWatch.see, ClearWatch.pending, hlast, howed]
  refine ⟨h.kept, guarded_onResponse h.guard c, fun _ => ⟨rfl, ?_⟩, fun e => absurd rfl e⟩
  rw [howed']
  split
  · next hclears =>
    obtain ⟨rest, hitems⟩ := hwait hclears
    obtain ⟨rest', hleft⟩ := Client.onResponse_items_of_wait hitems c
    exact .inr ⟨clearWaitMs, rest', hleft, le_rfl⟩
  · exact .inl rfl

/-- The client's wait pays what is owed. -/
theorem waited {ms : Nat} (h : m.Covered .idle (.wait ms :: rest)) : (m.see (.wait ms)).Covered .idle rest := by
  obtain ⟨hlast, howed⟩ := h.idle rfl
  have hle : m.owed ≤ ms := by
    rcases howed with hzero | ⟨t, rest', hitems, hle⟩
    · omega
    · cases hitems
      exact hle
  exact ⟨h.kept, h.guard, fun _ => ⟨hlast, .inl (Nat.sub_eq_zero_of_le hle)⟩, fun e => absurd rfl e⟩

/-- With no item left nothing is owed, so any guarded items may come. -/
theorem begun (h : m.Covered .idle []) (hguard : guarded items = true) : m.Covered .idle items := by
  obtain ⟨hlast, howed⟩ := h.idle rfl
  have hzero : m.owed = 0 := by simpa using howed
  exact ⟨h.kept, hguard, fun _ => ⟨hlast, .inl hzero⟩, fun e => absurd rfl e⟩

end ClearWatch.Covered

/-- Settles O57: nothing has been read and the client has no item. -/
theorem macroClientAtConstruction : Obligations.MacroClientAtConstruction :=
  fun _ _ _ hcalls hbytes => (macroClient_iff _).2
    ⟨⟨hcalls, hbytes⟩, rfl, rfl, fun _ => ⟨rfl, .inl rfl⟩, fun e => absurd rfl e⟩

/-- R25: a micro-step leaves what is owed covered. -/
theorem macroClient_runMicroStep {s : State} {op : Op} {i : Fin op.len} (hs : MacroClient s) (hseq : s.seq = .run op i) :
    MacroClient (runMicroStep op i s) := by
  rw [macroClient_iff] at hs ⊢
  obtain ⟨hcalls, hcovered⟩ := hs
  have hbusy : s.seq ≠ .idle := by simp [hseq]
  obtain ⟨es, hes, ⟨hemits, hq, hclient⟩ | ⟨c, hemits, hq, hclient⟩⟩ := runMicroStep_emits hseq
  · rw [hclient, watch_of_emits hemits, hcovered.calls hbusy hes]
    exact ⟨hcalls, hcovered.next hbusy hq⟩
  · rw [hclient, hq, watch_of_emits hemits, List.foldl_append, hcovered.calls hbusy hes]
    exact ⟨hcalls.onResponse c, hcovered.answered hbusy c⟩

/-- R25: so does the acceptance of the word the client offers. -/
theorem macroClient_accept {s t : State} {q : RequestWord} {rest : List ClientItem} (hs : MacroClient s)
    (hseq : s.seq = .idle) (hitems : s.client.items = .request q :: rest) (h : accept q rest s = .next t) :
    MacroClient t := by
  rw [macroClient_iff] at hs ⊢
  obtain ⟨hcalls, hcovered⟩ := hs
  rw [hseq, hitems] at hcovered
  have htaken : ∀ q' : Seq, q' ≠ .idle → ((watch s.trace).see (.req q)).Covered q' (s.client.take rest).items := by
    rw [Client.take_items]
    exact fun q' => hcovered.accepted
  rcases accept_emits h with ⟨hemits, hq, hclient⟩ | ⟨c, hemits, hq, hclient⟩
  · rw [hclient, watch_of_emits hemits]
    exact ⟨hcalls.take rest, htaken t.seq hq⟩
  · have hrun : Seq.run .xfer ⟨0, Op.len_pos .xfer⟩ ≠ .idle := by simp
    rw [hclient, hq, watch_of_emits hemits]
    exact ⟨(hcalls.take rest).onResponse c, (htaken _ hrun).answered hrun c⟩

/-- Settles O58, by what a step shows of the block to its client and to a reader of the trace. -/
theorem stepKeepsTheClearWait : Obligations.StepKeepsTheClearWait := by
  intro s t hs h
  rcases step_cases h with ⟨op, i, hseq, rfl⟩ | ⟨hseq, q, rest, hitems, h⟩ | ⟨hseq, ms, rest, hitems, rfl⟩ |
    ⟨hseq, hitems, rfl⟩
  · exact macroClient_runMicroStep hs hseq
  · exact macroClient_accept hs hseq hitems h
  · rcases clientWait_cases ms rest s with ⟨-, e⟩ | ⟨-, e⟩ <;> rw [e]
    · exact hs
    · rw [macroClient_iff, hseq, hitems] at hs
      obtain ⟨hcalls, hcovered⟩ := hs
      rw [macroClient_iff, delay_trace, watch_append, delay_seq, hseq]
      exact ⟨hcalls, hcovered.waited⟩
  · rw [macroClient_iff, hseq, hitems] at hs
    obtain ⟨hcalls, hcovered⟩ := hs
    obtain ⟨hcalls', hguard⟩ := hcalls.turn hitems
    rw [macroClient_iff, clientTurn_trace, clientTurn_seq, hseq]
    exact ⟨hcalls', hcovered.begun hguard⟩

end Sys2Proof.Safety
end
